-- ==== Sys2Proof/Word.lean ====
section
/-!
DEFINITION. The word types of the block (00_scope R7, R8): every value is an unsigned bit vector whose width is in its name.
-/

namespace Sys2Proof

/-- `u8`: a general register, a timer, a memory byte, an immediate `NN`. -/
abbrev Byte := BitVec 8

/-- `u16`: an instruction word, `I`, `pc`, a stack entry. -/
abbrev Word := BitVec 16

/-- A 4-bit instruction field (00_scope glossary, "Nibble"). -/
abbrev Nibble := BitVec 4

/-- The 4-bit index of a general register, V0 to VF (10_state R24). -/
abbrev Reg := BitVec 4

/-- The embedded 12-bit address `NNN` (30_encoding R72). -/
abbrev Addr12 := BitVec 12

end Sys2Proof
end

