-- ==== Sys2Proof/Config.lean ====
section
/-!
DEFINITION. What an implementation fixes (00_scope R7) and the free values of the model (10_state R35, R40).
The parameters `FONT_TABLE`, `FONT_DIGIT` and `KEY_INDEX` stand where their value is used: Machine/Ops.lean and Machine/Operands.lean.
-/

namespace Sys2Proof

/-- The parameter `SYS_MODE` of 00_scope R7: how group-0 words other than 0x00E0 and 0x00EE decode. -/
inductive SysMode where
  | nop      -- they decode to SYS, a no-op (92_eei_decisions D3)
  | invalid  -- they decode to `Invalid` (the reading of the source's section 4.1)
  deriving DecidableEq, Repr

/-- The value this block takes: `nop` (00_scope R7, 90_conflicts C4; log entry 6). -/
def Config.sysMode : SysMode := .nop

/-- `MEM_SIZE`, the number of bytes of memory (00_scope R7). -/
def Config.memSize : Nat := 4096

/-- `PROG_BASE`, where a program is loaded and starts (00_scope R7). -/
def Config.progBase : Nat := 0x200

/-- `FONT_BASE`, the address of the font table (00_scope R7). -/
def Config.fontBase : Nat := 0x050

/-- `GLYPH_BYTES`, the bytes of one glyph (00_scope R7). -/
def Config.glyphBytes : Nat := 5

/-- `STACK_DEPTH`, the number of return addresses the stack holds (00_scope R7). -/
def Config.stackDepth : Nat := 16

/-- FREE VALUE. The keypad snapshot of a `Step` whose arguments nothing else decides, by the number of the draw.
The spec admits every snapshot in every cycle (10_state R35, 92_eei_decisions D14; log entry 2). -/
opaque Config.keypad : Nat → Vector Bool 16

/-- FREE VALUE. The random byte of a `Step` whose arguments nothing else decides, by the number of the draw.
The spec admits every byte in every cycle (10_state R40, 92_eei_decisions D15; log entry 3). -/
opaque Config.randomByte : Nat → Byte

end Sys2Proof
end

