-- ==== Sys2Proof/Syntax.lean ====
section
/-!
DEFINITION. The 35 instruction forms of 30_encoding R73, one constructor per row of spec/opcode_table.json, in the table's order.
`Invalid` is no form: it is the decoder's other answer (Decode.lean).
-/

namespace Sys2Proof

/-- A decoded instruction: its form and the fields the form uses (30_encoding R70, R72).
SHR and SHL carry no `Y`: that field is ignored, and every value of it decodes to the same instruction (R76). -/
inductive Instr where
  | cls                              -- 00E0  CLS
  | ret                              -- 00EE  RET
  | sys (nnn : Addr12)               -- 0NNN  SYS NNN
  | jp (nnn : Addr12)                -- 1NNN  JP NNN
  | call (nnn : Addr12)              -- 2NNN  CALL NNN
  | seImm (x : Reg) (nn : Byte)      -- 3XNN  SE Vx, NN
  | sneImm (x : Reg) (nn : Byte)     -- 4XNN  SNE Vx, NN
  | seReg (x y : Reg)                -- 5XY0  SE Vx, Vy
  | ldImm (x : Reg) (nn : Byte)      -- 6XNN  LD Vx, NN
  | addImm (x : Reg) (nn : Byte)     -- 7XNN  ADD Vx, NN
  | ldReg (x y : Reg)                -- 8XY0  LD Vx, Vy
  | orReg (x y : Reg)                -- 8XY1  OR Vx, Vy
  | andReg (x y : Reg)               -- 8XY2  AND Vx, Vy
  | xorReg (x y : Reg)               -- 8XY3  XOR Vx, Vy
  | addReg (x y : Reg)               -- 8XY4  ADD Vx, Vy
  | sub (x y : Reg)                  -- 8XY5  SUB Vx, Vy
  | shr (x : Reg)                    -- 8XY6  SHR Vx
  | subn (x y : Reg)                 -- 8XY7  SUBN Vx, Vy
  | shl (x : Reg)                    -- 8XYE  SHL Vx
  | sneReg (x y : Reg)               -- 9XY0  SNE Vx, Vy
  | ldI (nnn : Addr12)               -- ANNN  LD I, NNN
  | jpV0 (nnn : Addr12)              -- BNNN  JP V0, NNN
  | rnd (x : Reg) (nn : Byte)        -- CXNN  RND Vx, NN
  | drw (x y : Reg) (n : Nibble)     -- DXYN  DRW Vx, Vy, N
  | skp (x : Reg)                    -- EX9E  SKP Vx
  | sknp (x : Reg)                   -- EXA1  SKNP Vx
  | ldVxDt (x : Reg)                 -- FX07  LD Vx, DT
  | ldVxK (x : Reg)                  -- FX0A  LD Vx, K
  | ldDtVx (x : Reg)                 -- FX15  LD DT, Vx
  | ldStVx (x : Reg)                 -- FX18  LD ST, Vx
  | addI (x : Reg)                   -- FX1E  ADD I, Vx
  | ldF (x : Reg)                    -- FX29  LD F, Vx
  | ldB (x : Reg)                    -- FX33  LD B, Vx
  | ldMemVx (x : Reg)                -- FX55  LD [I], Vx
  | ldVxMem (x : Reg)                -- FX65  LD Vx, [I]
  deriving DecidableEq, Repr

end Sys2Proof
end

