-- ==== Sys2Proof/Decode.lean ====
section
/-!
DEFINITION. The decoder of 30_encoding R70 to R79, total on every word, and after it the encoder written from the same table,
the table itself (R73) and the host's `decodeTableWord`.
-/

namespace Sys2Proof

/-! ### Fields (30_encoding R70) -/

/-- The group, `w[15:12]`. -/
def fieldG (w : Word) : Nibble := w.extractLsb' 12 4

/-- `X`, `w[11:8]`. -/
def fieldX (w : Word) : Reg := w.extractLsb' 8 4

/-- `Y`, `w[7:4]`. -/
def fieldY (w : Word) : Reg := w.extractLsb' 4 4

/-- `N`, `w[3:0]`. -/
def fieldN (w : Word) : Nibble := w.extractLsb' 0 4

/-- `NN`, `w[7:0]`. -/
def fieldNN (w : Word) : Byte := w.extractLsb' 0 8

/-- `NNN`, `w[11:0]`. -/
def fieldNNN (w : Word) : Addr12 := w.extractLsb' 0 12

/-! ### The decoder (30_encoding R74) -/

/-- The decoder's answer: one of the 35 forms, or `Invalid(w)` carrying the raw word (30_encoding R73, R75). -/
inductive Decoded where
  | instr (i : Instr)
  | invalid (w : Word)
  deriving DecidableEq, Repr

/-- Group 0: the two exact words take precedence over SYS, which `SYS_MODE` may switch off (30_encoding R73, R74). -/
def decodeGroup0 (mode : SysMode) (w : Word) : Decoded :=
  if w = 0x00E0#16 then .instr .cls
  else if w = 0x00EE#16 then .instr .ret
  else match mode with
    | .nop => .instr (.sys (fieldNNN w))
    | .invalid => .invalid w

/-- Group 8, by its low nibble (30_encoding R74). -/
def decodeGroup8 (w : Word) : Decoded :=
  let x := fieldX w
  let y := fieldY w
  match (fieldN w).toNat with
  | 0x0 => .instr (.ldReg x y)
  | 0x1 => .instr (.orReg x y)
  | 0x2 => .instr (.andReg x y)
  | 0x3 => .instr (.xorReg x y)
  | 0x4 => .instr (.addReg x y)
  | 0x5 => .instr (.sub x y)
  | 0x6 => .instr (.shr x)
  | 0x7 => .instr (.subn x y)
  | 0xE => .instr (.shl x)
  | _ => .invalid w

/-- Group E, by its low byte (30_encoding R74). -/
def decodeGroupE (w : Word) : Decoded :=
  match (fieldNN w).toNat with
  | 0x9E => .instr (.skp (fieldX w))
  | 0xA1 => .instr (.sknp (fieldX w))
  | _ => .invalid w

/-- Group F, by its low byte (30_encoding R74). -/
def decodeGroupF (w : Word) : Decoded :=
  let x := fieldX w
  match (fieldNN w).toNat with
  | 0x07 => .instr (.ldVxDt x)
  | 0x0A => .instr (.ldVxK x)
  | 0x15 => .instr (.ldDtVx x)
  | 0x18 => .instr (.ldStVx x)
  | 0x1E => .instr (.addI x)
  | 0x29 => .instr (.ldF x)
  | 0x33 => .instr (.ldB x)
  | 0x55 => .instr (.ldMemVx x)
  | 0x65 => .instr (.ldVxMem x)
  | _ => .invalid w

/-- The decoder under a given `SYS_MODE` (30_encoding R74, R75). -/
def decodeWith (mode : SysMode) (w : Word) : Decoded :=
  match (fieldG w).toNat with
  | 0x0 => decodeGroup0 mode w
  | 0x1 => .instr (.jp (fieldNNN w))
  | 0x2 => .instr (.call (fieldNNN w))
  | 0x3 => .instr (.seImm (fieldX w) (fieldNN w))
  | 0x4 => .instr (.sneImm (fieldX w) (fieldNN w))
  | 0x5 => if fieldN w = 0#4 then .instr (.seReg (fieldX w) (fieldY w)) else .invalid w
  | 0x6 => .instr (.ldImm (fieldX w) (fieldNN w))
  | 0x7 => .instr (.addImm (fieldX w) (fieldNN w))
  | 0x8 => decodeGroup8 w
  | 0x9 => if fieldN w = 0#4 then .instr (.sneReg (fieldX w) (fieldY w)) else .invalid w
  | 0xA => .instr (.ldI (fieldNNN w))
  | 0xB => .instr (.jpV0 (fieldNNN w))
  | 0xC => .instr (.rnd (fieldX w) (fieldNN w))
  | 0xD => .instr (.drw (fieldX w) (fieldY w) (fieldN w))
  | 0xE => decodeGroupE w
  | 0xF => decodeGroupF w
  | _ => .invalid w  -- not reached: a 4-bit group is at most 0xF

/-- The block's decoder (30_encoding R73, R74). -/
def decode (w : Word) : Decoded := decodeWith Config.sysMode w

/-- The word of two bytes of memory, big-endian: `hi` stands at the lower address (20_memory R53). -/
def wordOfBytes (hi lo : Byte) : Word := hi ++ lo

/-- The byte at a word's lower address (20_memory R53). -/
def highByte (w : Word) : Byte := w.extractLsb' 8 8

/-- The byte at a word's higher address (20_memory R53). -/
def lowByte (w : Word) : Byte := w.extractLsb' 0 8

/-- Decoding two bytes as memory holds them. -/
def decodeBytes (hi lo : Byte) : Decoded := decode (wordOfBytes hi lo)

/-- The form read, or none where the decoder answers `Invalid`. -/
def Decoded.toOption : Decoded → Option Instr
  | .instr i => some i
  | .invalid _ => none

/-- The instruction word that the host numbers as spec/opcode_table.json does; the bits above `nbits` are 0. -/
def tableWord (nbits w : Nat) : Word := BitVec.ofNat 16 (w % 2 ^ nbits)

/-- What the decoder reads from the bytes of a table word as memory holds them. -/
def decodeTableWord (nbits w : Nat) : Option Instr :=
  (decodeBytes (highByte (tableWord nbits w)) (lowByte (tableWord nbits w))).toOption

/-! ### The encoder (30_encoding R73) -/

/-- A word of the shape `G NNN`. -/
def packNNN (g : Nibble) (nnn : Addr12) : Word := g ++ nnn

/-- A word of the shape `G X NN`. -/
def packXNN (g : Nibble) (x : Reg) (nn : Byte) : Word := g ++ (x ++ nn : BitVec 12)

/-- A word of the shape `G X Y N`. -/
def packXYN (g : Nibble) (x y : Reg) (n : Nibble) : Word := g ++ (x ++ (y ++ n : BitVec 8) : BitVec 12)

/-- The word of an instruction. The ignored `Y` field of SHR and SHL is written 0 (30_encoding R76). -/
def encode : Instr → Word
  | .cls => 0x00E0#16
  | .ret => 0x00EE#16
  | .sys nnn => packNNN 0x0#4 nnn
  | .jp nnn => packNNN 0x1#4 nnn
  | .call nnn => packNNN 0x2#4 nnn
  | .seImm x nn => packXNN 0x3#4 x nn
  | .sneImm x nn => packXNN 0x4#4 x nn
  | .seReg x y => packXYN 0x5#4 x y 0x0#4
  | .ldImm x nn => packXNN 0x6#4 x nn
  | .addImm x nn => packXNN 0x7#4 x nn
  | .ldReg x y => packXYN 0x8#4 x y 0x0#4
  | .orReg x y => packXYN 0x8#4 x y 0x1#4
  | .andReg x y => packXYN 0x8#4 x y 0x2#4
  | .xorReg x y => packXYN 0x8#4 x y 0x3#4
  | .addReg x y => packXYN 0x8#4 x y 0x4#4
  | .sub x y => packXYN 0x8#4 x y 0x5#4
  | .shr x => packXYN 0x8#4 x 0x0#4 0x6#4
  | .subn x y => packXYN 0x8#4 x y 0x7#4
  | .shl x => packXYN 0x8#4 x 0x0#4 0xE#4
  | .sneReg x y => packXYN 0x9#4 x y 0x0#4
  | .ldI nnn => packNNN 0xA#4 nnn
  | .jpV0 nnn => packNNN 0xB#4 nnn
  | .rnd x nn => packXNN 0xC#4 x nn
  | .drw x y n => packXYN 0xD#4 x y n
  | .skp x => packXNN 0xE#4 x 0x9E#8
  | .sknp x => packXNN 0xE#4 x 0xA1#8
  | .ldVxDt x => packXNN 0xF#4 x 0x07#8
  | .ldVxK x => packXNN 0xF#4 x 0x0A#8
  | .ldDtVx x => packXNN 0xF#4 x 0x15#8
  | .ldStVx x => packXNN 0xF#4 x 0x18#8
  | .addI x => packXNN 0xF#4 x 0x1E#8
  | .ldF x => packXNN 0xF#4 x 0x29#8
  | .ldB x => packXNN 0xF#4 x 0x33#8
  | .ldMemVx x => packXNN 0xF#4 x 0x55#8
  | .ldVxMem x => packXNN 0xF#4 x 0x65#8

/-! ### The opcode table (30_encoding R73) -/

/-- One row of the table: `w` matches it when `w & mask == value`. -/
structure OpRow where
  value : Word
  mask : Word
  deriving DecidableEq, Repr

/-- A word matches a row (30_encoding R73). -/
def OpRow.matches (r : OpRow) (w : Word) : Bool := w &&& r.mask == r.value

/-- The row of R73 that a form stands in. -/
def Instr.row : Instr → OpRow
  | .cls => ⟨0x00E0#16, 0xFFFF#16⟩
  | .ret => ⟨0x00EE#16, 0xFFFF#16⟩
  | .sys _ => ⟨0x0000#16, 0xF000#16⟩
  | .jp _ => ⟨0x1000#16, 0xF000#16⟩
  | .call _ => ⟨0x2000#16, 0xF000#16⟩
  | .seImm _ _ => ⟨0x3000#16, 0xF000#16⟩
  | .sneImm _ _ => ⟨0x4000#16, 0xF000#16⟩
  | .seReg _ _ => ⟨0x5000#16, 0xF00F#16⟩
  | .ldImm _ _ => ⟨0x6000#16, 0xF000#16⟩
  | .addImm _ _ => ⟨0x7000#16, 0xF000#16⟩
  | .ldReg _ _ => ⟨0x8000#16, 0xF00F#16⟩
  | .orReg _ _ => ⟨0x8001#16, 0xF00F#16⟩
  | .andReg _ _ => ⟨0x8002#16, 0xF00F#16⟩
  | .xorReg _ _ => ⟨0x8003#16, 0xF00F#16⟩
  | .addReg _ _ => ⟨0x8004#16, 0xF00F#16⟩
  | .sub _ _ => ⟨0x8005#16, 0xF00F#16⟩
  | .shr _ => ⟨0x8006#16, 0xF00F#16⟩
  | .subn _ _ => ⟨0x8007#16, 0xF00F#16⟩
  | .shl _ => ⟨0x800E#16, 0xF00F#16⟩
  | .sneReg _ _ => ⟨0x9000#16, 0xF00F#16⟩
  | .ldI _ => ⟨0xA000#16, 0xF000#16⟩
  | .jpV0 _ => ⟨0xB000#16, 0xF000#16⟩
  | .rnd _ _ => ⟨0xC000#16, 0xF000#16⟩
  | .drw _ _ _ => ⟨0xD000#16, 0xF000#16⟩
  | .skp _ => ⟨0xE09E#16, 0xF0FF#16⟩
  | .sknp _ => ⟨0xE0A1#16, 0xF0FF#16⟩
  | .ldVxDt _ => ⟨0xF007#16, 0xF0FF#16⟩
  | .ldVxK _ => ⟨0xF00A#16, 0xF0FF#16⟩
  | .ldDtVx _ => ⟨0xF015#16, 0xF0FF#16⟩
  | .ldStVx _ => ⟨0xF018#16, 0xF0FF#16⟩
  | .addI _ => ⟨0xF01E#16, 0xF0FF#16⟩
  | .ldF _ => ⟨0xF029#16, 0xF0FF#16⟩
  | .ldB _ => ⟨0xF033#16, 0xF0FF#16⟩
  | .ldMemVx _ => ⟨0xF055#16, 0xF0FF#16⟩
  | .ldVxMem _ => ⟨0xF065#16, 0xF0FF#16⟩

/-- Rows 1 to 19 of R73. -/
def opcodeRowsLow : List OpRow :=
  [⟨0x00E0#16, 0xFFFF#16⟩, ⟨0x00EE#16, 0xFFFF#16⟩, ⟨0x0000#16, 0xF000#16⟩, ⟨0x1000#16, 0xF000#16⟩,
   ⟨0x2000#16, 0xF000#16⟩, ⟨0x3000#16, 0xF000#16⟩, ⟨0x4000#16, 0xF000#16⟩, ⟨0x5000#16, 0xF00F#16⟩,
   ⟨0x6000#16, 0xF000#16⟩, ⟨0x7000#16, 0xF000#16⟩, ⟨0x8000#16, 0xF00F#16⟩, ⟨0x8001#16, 0xF00F#16⟩,
   ⟨0x8002#16, 0xF00F#16⟩, ⟨0x8003#16, 0xF00F#16⟩, ⟨0x8004#16, 0xF00F#16⟩, ⟨0x8005#16, 0xF00F#16⟩,
   ⟨0x8006#16, 0xF00F#16⟩, ⟨0x8007#16, 0xF00F#16⟩, ⟨0x800E#16, 0xF00F#16⟩]

/-- Rows 20 to 35 of R73. -/
def opcodeRowsHigh : List OpRow :=
  [⟨0x9000#16, 0xF00F#16⟩, ⟨0xA000#16, 0xF000#16⟩, ⟨0xB000#16, 0xF000#16⟩, ⟨0xC000#16, 0xF000#16⟩,
   ⟨0xD000#16, 0xF000#16⟩, ⟨0xE09E#16, 0xF0FF#16⟩, ⟨0xE0A1#16, 0xF0FF#16⟩, ⟨0xF007#16, 0xF0FF#16⟩,
   ⟨0xF00A#16, 0xF0FF#16⟩, ⟨0xF015#16, 0xF0FF#16⟩, ⟨0xF018#16, 0xF0FF#16⟩, ⟨0xF01E#16, 0xF0FF#16⟩,
   ⟨0xF029#16, 0xF0FF#16⟩, ⟨0xF033#16, 0xF0FF#16⟩, ⟨0xF055#16, 0xF0FF#16⟩, ⟨0xF065#16, 0xF0FF#16⟩]

/-- The 35 rows, in the table's order: "Rows are tried top to bottom" (R73). -/
def opcodeTable : List OpRow := opcodeRowsLow ++ opcodeRowsHigh

end Sys2Proof
end

