-- ==== Sys2Proof/Machine/State.lean ====
section
/-!
DEFINITION. The state of the block (10_state), the reasons a step can stop (60_exceptions R250) and the power-on state (70_reset_and_hazards R280).
-/

namespace Sys2Proof.Machine

/-- The arguments `K` and `R` of one call of `Step` (10_state R42): the keypad snapshot and the random byte. -/
structure Input where
  keys : Vector Bool 16
  rand : Byte
  deriving DecidableEq, Repr

/-- Memory as (address, byte) pairs, addresses strictly rising, none listed that holds its reset value (Machine/Ops.lean). -/
abbrev Memory := List Host.Cell

/-- The framebuffer: 32 rows of 64 pixels, `true` meaning lit; cell (x, y) is column x of row y (10_state R33). -/
abbrev Screen := Vector (Vector Bool 64) 32

/-- The state of the block (10_state R41's table), with the arguments of the coming `Step`s packaged beside it. -/
structure State where
  /-- V0 to VF (R20); VF is also the flag register (R21). -/
  v : Vector Byte 16
  /-- The index register `I` (R25). -/
  index : Word
  /-- The program counter (R26). -/
  pc : Word
  /-- `stack[0]` to `stack[15]` (R28). -/
  stack : Vector Word 16
  /-- `SP`, the number of entries on the stack, 0 to 16 (R28). -/
  sp : Fin 17
  /-- The delay timer `DT` (R30). -/
  dt : Byte
  /-- The sound timer `ST`, an output (R31). -/
  st : Byte
  /-- `KEY[0]` to `KEY[15]`: the snapshot a cycle reads, written anew before every cycle (R32, R35). -/
  keys : Vector Bool 16
  /-- The framebuffer `FB`, an output (R33, R34). -/
  fb : Screen
  /-- The memory array `Mem` (R36). -/
  mem : Memory
  /-- The model's own: `RAND`, the random byte a cycle reads, an argument of `Step` put here before every cycle (R40; log entry 3). -/
  rand : Byte
  /-- The model's own: arguments of later `Step`s that are already decided, oldest first (log entry 2). -/
  inputs : List Input
  /-- The model's own: how many free inputs have been numbered (log entries 2 and 3). -/
  draws : Nat
  deriving DecidableEq, Repr

/-- Why a call stops with a fault (60_exceptions R250, R257). Every one is the spec's own typed result, so each is SAFE:
the hardware stops there too. The state after a fault is the state before the call (R256), so a fault carries none. -/
inductive Fault where
  /-- Raised by the cycle for a word that decodes to `Invalid(w)` (R251). Safe. -/
  | invalidInstruction (opcode pc : Word)
  /-- Raised by CALL when the stack holds 16 entries (R252). Safe. -/
  | stackOverflow (opcode pc : Word)
  /-- Raised by RET when the stack is empty (R253). Safe. -/
  | stackUnderflow (opcode pc : Word)
  /-- Raised by the fetch (no opcode), the pc check, DRW, LD B, LD [I] and LD Vx,[I] (R254); `addr` is the lowest offending address. Safe. -/
  | memoryOutOfRange (addr : Nat) (opcode : Option Word) (pc : Word)
  /-- Raised by `Load`, never by a cycle (R255). Safe. -/
  | programTooLarge (length : Nat)
  deriving DecidableEq, Repr

/-- Why a call is refused. No instruction of the block is refused; the last three are the host's calls that the spec does not offer. -/
inductive Refusal where
  /-- Raised by an arm of `exec` that has no meaning yet: none is left. Safe. -/
  | notModelled (mnemonic : String)
  /-- Raised by the host's `Load` after the first `Step`: "a model refuses such a call" (70_reset_and_hazards R283). Safe. -/
  | loadAfterStep
  /-- Raised by a second `Load`: the boot order has one (70_reset_and_hazards R283, 92_eei_decisions D22). Safe. -/
  | loadTwice
  /-- Raised by the host's `HostSkip` when the last call did not fault with InvalidInstruction (60_exceptions R262). Safe. -/
  | skipNotOffered
  deriving DecidableEq, Repr

/-- The result of executing an instruction or a cycle. -/
abbrev Outcome := Host.Outcome State Fault Refusal

/-- The power-on state (70_reset_and_hazards R280): all storage zero, the font in memory (an unlisted address reads as its
reset contents, Machine/Ops.lean), pc 0x200, the stack empty, the timers zero, no key pressed.
`rand`, `inputs` and `draws` are the model's own: `rand` is the free value number 0, and the first `Step`'s arguments are the free values
number 1 (log entries 2 and 3). -/
def State.reset : State where
  v := Vector.replicate 16 0#8
  index := 0#16
  pc := 0x200#16
  stack := Vector.replicate 16 0#16
  sp := 0
  dt := 0#8
  st := 0#8
  keys := Vector.replicate 16 false
  fb := Vector.replicate 32 (Vector.replicate 64 false)
  mem := []
  rand := Config.randomByte 0
  inputs := []
  draws := 1

end Sys2Proof.Machine
end

