-- ==== Sys2Proof/Machine/Ops.lean ====
section
/-!
DEFINITION. The named operations over memory, registers, the stack and the framebuffer, and the raising of a fault.
-/

namespace Sys2Proof.Machine

/-! ### The font table and what memory holds at power-on -/

/-- Glyphs 0 to 7 of `FONT_TABLE` (10_state R37; log entry 5). -/
def fontLow : List Byte :=
  [0xF0#8, 0x90#8, 0x90#8, 0x90#8, 0xF0#8,  0x20#8, 0x60#8, 0x20#8, 0x20#8, 0x70#8,
   0xF0#8, 0x10#8, 0xF0#8, 0x80#8, 0xF0#8,  0xF0#8, 0x10#8, 0xF0#8, 0x10#8, 0xF0#8,
   0x90#8, 0x90#8, 0xF0#8, 0x10#8, 0x10#8,  0xF0#8, 0x80#8, 0xF0#8, 0x10#8, 0xF0#8,
   0xF0#8, 0x80#8, 0xF0#8, 0x90#8, 0xF0#8,  0xF0#8, 0x10#8, 0x20#8, 0x40#8, 0x40#8]

/-- Glyphs 8 to F of `FONT_TABLE` (10_state R37; log entry 5). -/
def fontHigh : List Byte :=
  [0xF0#8, 0x90#8, 0xF0#8, 0x90#8, 0xF0#8,  0xF0#8, 0x90#8, 0xF0#8, 0x10#8, 0xF0#8,
   0xF0#8, 0x90#8, 0xF0#8, 0x90#8, 0x90#8,  0xE0#8, 0x90#8, 0xE0#8, 0x90#8, 0xE0#8,
   0xF0#8, 0x80#8, 0x80#8, 0x80#8, 0xF0#8,  0xE0#8, 0x90#8, 0x90#8, 0x90#8, 0xE0#8,
   0xF0#8, 0x80#8, 0xF0#8, 0x80#8, 0xF0#8,  0xF0#8, 0x80#8, 0xF0#8, 0x80#8, 0x80#8]

/-- `FONT_TABLE`: 16 glyphs of 5 bytes (10_state R37). -/
def fontTable : List Byte := fontLow ++ fontHigh

/-- What an unlisted address reads as, its power-on contents: the font table from 0x050, zero everywhere else
(70_reset_and_hazards R280, 20_memory R51). -/
def Memory.blank (a : Nat) : Byte :=
  if Config.fontBase ≤ a then fontTable.getD (a - Config.fontBase) 0#8 else 0#8

/-! ### One byte of memory -/

/-- `Mem[a]`. -/
def Memory.read : Memory → Nat → Byte
  | [], a => Memory.blank a
  | c :: m, a => if c.1 = a then c.2 else Memory.read m a

/-- Memory with no entry for `a`. -/
def Memory.erase (m : Memory) (a : Nat) : Memory := m.filter fun c => c.1 != a

/-- An entry put in its place by address. -/
def Memory.insert : Memory → Nat → Byte → Memory
  | [], a, b => [(a, b)]
  | c :: m, a, b => if a < c.1 then (a, b) :: c :: m else c :: Memory.insert m a b

/-- `Mem[a] <- b`. A byte equal to the reset contents is not listed, so that equal memories are equal lists. -/
def Memory.write (m : Memory) (a : Nat) (b : Byte) : Memory :=
  if b = Memory.blank a then m.erase a else (m.erase a).insert a b

/-- The canonical form: addresses strictly rising, every address inside the array, no entry equal to the reset contents. -/
abbrev Memory.wf (m : Memory) : Prop :=
  m.Pairwise (fun c d => c.1 < d.1) ∧ ∀ c ∈ m, c.1 < 4096 ∧ c.2 ≠ Memory.blank c.1

/-! ### Several bytes (20_memory R55) -/

/-- `InRange(addr, n)`: every byte of the access lies in the array; exact integers, so nothing wraps, and `n = 0` is always
in range, wherever `addr` points (20_memory R55, 45_display R215; log entry 28). -/
abbrev inRange (addr n : Nat) : Prop := n = 0 ∨ addr + n ≤ Config.memSize

/-- The lowest out-of-range address of an access that fails the check (20_memory R55). -/
def lowestBad (addr : Nat) : Nat := max addr Config.memSize

/-- The `n` bytes from `addr` on: `MemRead` after its check (00_scope R9). -/
def Memory.readBytes (m : Memory) (addr n : Nat) : List Byte :=
  (List.range n).map fun k => m.read (addr + k)

/-- The bytes of a list written from `addr` on: `MemWrite` after its check (00_scope R9). -/
def Memory.writeBytes : Memory → Nat → List Byte → Memory
  | m, _, [] => m
  | m, addr, b :: bs => Memory.writeBytes (m.write addr b) (addr + 1) bs

/-! ### Registers -/

/-- `V[x]`. -/
def State.reg (s : State) (x : Reg) : Byte := s.v[x.toNat]'x.isLt

/-- `V[x] <- b`. -/
def State.setReg (s : State) (x : Reg) (b : Byte) : State := { s with v := s.v.set x.toNat b x.isLt }

/-- The index of VF, the flag register (10_state R21). -/
def regF : Reg := 0xF#4

/-- A result and its flag: `V[x]` first, VF second, so VF ends holding the flag when `x` is F (10_state R23). -/
def State.setRegFlag (s : State) (x : Reg) (result flag : Byte) : State := (s.setReg x result).setReg regF flag

/-- `I <- w`. -/
def State.setIndex (s : State) (w : Word) : State := { s with index := w }

/-- `pc <- w`. -/
def State.setPc (s : State) (w : Word) : State := { s with pc := w }

/-- `DT <- b`. -/
def State.setDt (s : State) (b : Byte) : State := { s with dt := b }

/-- `ST <- b`. -/
def State.setSt (s : State) (b : Byte) : State := { s with st := b }

/-- Memory replaced whole. -/
def State.setMem (s : State) (m : Memory) : State := { s with mem := m }

/-- The framebuffer replaced whole. -/
def State.setScreen (s : State) (f : Screen) : State := { s with fb := f }

/-- `V0` to `V[x]`, in order (44_index_memory R195). -/
def State.regBlock (s : State) (x : Reg) : List Byte := s.v.toList.take (x.toNat + 1)

/-- `V[k] <- Mem[I + k]` for k in 0..x; the registers above x keep their values (44_index_memory R197). -/
def State.loadBlock (s : State) (x : Reg) : State :=
  { s with v := Vector.ofFn fun k : Fin 16 =>
      if k.val ≤ x.toNat then s.mem.read (s.index.toNat + k.val) else s.v[k] }

/-! ### The program counter -/

/-- The width of an instruction in bytes (30_encoding R71). -/
def instrBytes : Word := 2#16

/-- The cycle's advance of the pc, before the instruction executes (40_cycle R103). -/
def State.advance (s : State) : State := s.setPc (s.pc + instrBytes)

/-- `pc_f` as the executing instruction sees it: the pc is already one instruction further (40_cycle R105). -/
def State.fetchPc (s : State) : Word := s.pc - instrBytes

/-- A skip: one more instruction width when the condition holds (42_skips R146). -/
def State.skipIf (s : State) (c : Bool) : State := if c then s.setPc (s.pc + instrBytes) else s

/-! ### The stack (10_state R28) -/

/-- `stack[SP - 1]`, read only when SP > 0. The default is never taken: SP is at most 16. -/
def State.stackTop (s : State) : Word := s.stack.getD (s.sp.val - 1) 0#16

/-- `stack[SP] <- w; SP <- SP + 1`, done only when SP < 16. -/
def State.push (s : State) (w : Word) : State :=
  { s with stack := s.stack.setIfInBounds s.sp.val w, sp := Fin.ofNat 17 (s.sp.val + 1) }

/-- `SP <- SP - 1`, done only when SP > 0; the entry itself stays where it is (10_state R28). -/
def State.pop (s : State) : State := { s with sp := Fin.ofNat 17 (s.sp.val - 1) }

/-! ### The framebuffer (10_state R33) -/

/-- A pixel: column and row. -/
abbrev Pixel := Fin 64 × Fin 32

/-- `FB[x][y]`. -/
def Screen.get (f : Screen) (p : Pixel) : Bool := f[p.2][p.1]

/-- `FB[x][y] <- b`. -/
def Screen.set (f : Screen) (p : Pixel) (b : Bool) : Screen := Vector.set f p.2 (Vector.set f[p.2] p.1 b)

/-- Every cell `false` (45_display R210). -/
def Screen.clear : Screen := Vector.replicate 32 (Vector.replicate 64 false)

/-- The pixels of one sprite byte's set bits, leftmost (bit 7) first, each coordinate wrapped on its own (45_display R211, R212). -/
def spriteRow (x0 y : Nat) (b : Byte) : List Pixel :=
  ((List.range 8).filter fun c => b.getLsbD (7 - c)).map fun c => (Fin.ofNat 64 (x0 + c), Fin.ofNat 32 y)

/-- The pixels of a sprite's set bits, row by row from the top (45_display R211). -/
def spritePixels (x0 y0 : Nat) : List Byte → List Pixel
  | [] => []
  | b :: bs => spriteRow x0 y0 b ++ spritePixels x0 (y0 + 1) bs

/-- XOR one pixel with `true`, noting a lit pixel turned off (45_display R211). -/
def drawPixel (acc : Screen × Bool) (p : Pixel) : Screen × Bool :=
  (acc.1.set p (!acc.1.get p), acc.2 || acc.1.get p)

/-- XOR a list of pixels; the collision starts at 0 (45_display R211). -/
def Screen.draw (f : Screen) (ps : List Pixel) : Screen × Bool := ps.foldl drawPixel (f, false)

/-! ### Faults

The block has no trap entry: a fault saves no register, changes no mode and goes to no vector (60_exceptions R260).
Taking one is to end the cycle with the typed result and drop every write of the cycle (R256): the outcome carries no state. -/

/-- The kinds of 60_exceptions R250. -/
inductive FaultKind where
  | invalidInstruction
  | stackOverflow
  | stackUnderflow
  | memoryOutOfRange
  | programTooLarge
  deriving DecidableEq, Repr

/-- The kind of a fault (60_exceptions R250). -/
def Fault.kind : Fault → FaultKind
  | .invalidInstruction _ _ => .invalidInstruction
  | .stackOverflow _ _ => .stackOverflow
  | .stackUnderflow _ _ => .stackUnderflow
  | .memoryOutOfRange _ _ _ => .memoryOutOfRange
  | .programTooLarge _ => .programTooLarge

/-- The spec's numeric code of a kind (60_exceptions R250). -/
def FaultKind.code : FaultKind → Nat
  | .invalidInstruction => 1
  | .stackOverflow => 2
  | .stackUnderflow => 3
  | .memoryOutOfRange => 4
  | .programTooLarge => 5

/-- The record a fault is reported as (60_exceptions R257); an absent item is `none`. -/
structure FaultRecord where
  kind : FaultKind
  code : Nat
  opcode : Option Word
  pc : Option Word
  addr : Option Nat
  length : Option Nat
  deriving DecidableEq, Repr

/-- The record of a fault (60_exceptions R257). -/
def Fault.record (f : Fault) : FaultRecord :=
  let base : FaultRecord := ⟨f.kind, f.kind.code, none, none, none, none⟩
  match f with
  | .invalidInstruction opcode pc => { base with opcode := some opcode, pc := some pc }
  | .stackOverflow opcode pc => { base with opcode := some opcode, pc := some pc }
  | .stackUnderflow opcode pc => { base with opcode := some opcode, pc := some pc }
  | .memoryOutOfRange addr opcode pc => { base with opcode := opcode, pc := some pc, addr := some addr }
  | .programTooLarge length => { base with length := some length }

/-- `raise Fault(...)` of the executing instruction `i`: `opcode = w` and `pc = pc_f` (60_exceptions R250).
The word is the encoder's: the six forms that raise a fault of their own have one word each (log entry 16). -/
def raise (i : Instr) (s : State) (f : Word → Word → Fault) : Outcome := .fault (f (encode i) s.fetchPc)

/-- An access of `n` bytes at `I` by the instruction `i`: checked whole before any effect, then done (20_memory R55). -/
def accessAtIndex (i : Instr) (n : Nat) (s : State) (effect : State → State) : Outcome :=
  if inRange s.index.toNat n then .next (effect s)
  else raise i s fun w pc => .memoryOutOfRange (lowestBad s.index.toNat) (some w) pc

end Sys2Proof.Machine
end

