-- ==== Sys2Proof/Machine/Flags.lean ====
section
/-!
DEFINITION. The values written to VF as a flag (10_state R21, 43_alu R171). Each is computed from the operands alone,
which are read before any register is written (10_state R22).
-/

namespace Sys2Proof.Machine

/-- A flag as the byte VF holds: 1 or 0. -/
def flagByte (c : Bool) : Byte := if c then 1#8 else 0#8

/-- The carry of ADD Vx, Vy: 1 when the exact sum exceeds 255 (43_alu R166). -/
def carryFlag (a b : Byte) : Byte := flagByte (decide (255 < a.toNat + b.toNat))

/-- The no-borrow flag of `a - b`: 1 when `a >= b` (43_alu R167, R169). -/
def noBorrowFlag (a b : Byte) : Byte := flagByte (decide (b.toNat ≤ a.toNat))

/-- The bit SHR shifts out, the pre-shift bit 0 (43_alu R168). -/
def shiftOutRight (a : Byte) : Byte := flagByte (a.getLsbD 0)

/-- The bit SHL shifts out, the pre-shift bit 7 (43_alu R170). -/
def shiftOutLeft (a : Byte) : Byte := flagByte (a.getLsbD 7)

/-- The collision flag of DRW (45_display R213). -/
def collisionFlag (c : Bool) : Byte := flagByte c

end Sys2Proof.Machine
end

