-- ==== Sys2Proof/Machine/Alu.lean ====
section
/-!
DEFINITION. Register loads, arithmetic, bitwise, shift and random (43_alu). Operands are read from the state at entry,
before any register is written (10_state R22); byte arithmetic wraps (R171). No instruction here faults.
-/

namespace Sys2Proof.Machine

/-- LD Vx, NN (R160). -/
def execLdImm (x : Reg) (nn : Byte) (s : State) : Outcome := .next (s.setReg x nn)

/-- ADD Vx, NN: wraps, no flag (R161). -/
def execAddImm (x : Reg) (nn : Byte) (s : State) : Outcome := .next (s.setReg x (s.reg x + nn))

/-- LD Vx, Vy (R162). -/
def execLdReg (x y : Reg) (s : State) : Outcome := .next (s.setReg x (s.reg y))

/-- OR Vx, Vy: no flag (R163). -/
def execOrReg (x y : Reg) (s : State) : Outcome := .next (s.setReg x (s.reg x ||| s.reg y))

/-- AND Vx, Vy: no flag (R164). -/
def execAndReg (x y : Reg) (s : State) : Outcome := .next (s.setReg x (s.reg x &&& s.reg y))

/-- XOR Vx, Vy: no flag (R165). -/
def execXorReg (x y : Reg) (s : State) : Outcome := .next (s.setReg x (s.reg x ^^^ s.reg y))

/-- ADD Vx, Vy: VF is the carry (R166). -/
def execAddReg (x y : Reg) (s : State) : Outcome :=
  .next (s.setRegFlag x (s.reg x + s.reg y) (carryFlag (s.reg x) (s.reg y)))

/-- SUB Vx, Vy: VF is 1 when no borrow occurred (R167). -/
def execSub (x y : Reg) (s : State) : Outcome :=
  .next (s.setRegFlag x (s.reg x - s.reg y) (noBorrowFlag (s.reg x) (s.reg y)))

/-- SHR Vx: VF is the pre-shift bit 0 (R168). -/
def execShr (x : Reg) (s : State) : Outcome :=
  .next (s.setRegFlag x (s.reg x >>> 1) (shiftOutRight (s.reg x)))

/-- SUBN Vx, Vy: `V[x] <- V[y] - V[x]`, VF is 1 when no borrow occurred (R169). -/
def execSubn (x y : Reg) (s : State) : Outcome :=
  .next (s.setRegFlag x (s.reg y - s.reg x) (noBorrowFlag (s.reg y) (s.reg x)))

/-- SHL Vx: VF is the pre-shift bit 7 (R170). -/
def execShl (x : Reg) (s : State) : Outcome :=
  .next (s.setRegFlag x (s.reg x <<< 1) (shiftOutLeft (s.reg x)))

/-- RND Vx, NN: the cycle's random byte, masked (R172). -/
def execRnd (x : Reg) (nn : Byte) (s : State) : Outcome := .next (s.setReg x (s.rand &&& nn))

end Sys2Proof.Machine
end

