-- ==== Sys2Proof/Machine/Display.lean ====
section
/-!
DEFINITION. The framebuffer writer (45_display): CLS and DRW.
-/

namespace Sys2Proof.Machine

/-- CLS: every pixel off; VF is unchanged (R210). -/
def execCls (s : State) : Outcome := .next (s.setScreen Screen.clear)

/-- The sprite DRW draws: `n` bytes from `I`, its corner at column `V[x]`, row `V[y]`, all read before VF is written (R211, R213). -/
def State.sprite (s : State) (x y : Reg) (n : Nibble) : List Pixel :=
  spritePixels (s.reg x).toNat (s.reg y).toNat (s.mem.readBytes s.index.toNat n.toNat)

/-- The framebuffer and VF after drawing a list of pixels (R211). -/
def State.drawSprite (s : State) (ps : List Pixel) : State :=
  (s.setScreen (s.fb.draw ps).1).setReg regF (collisionFlag (s.fb.draw ps).2)

/-- DRW Vx, Vy, N (R211): the memory check first, then the XOR draw, VF last. Height 0 draws nothing and cannot fault (R215). -/
def execDrw (x y : Reg) (n : Nibble) (s : State) : Outcome :=
  accessAtIndex (.drw x y n) n.toNat s fun s => s.drawSprite (s.sprite x y n)

end Sys2Proof.Machine
end

