-- ==== Sys2Proof/Machine/Operands.lean ====
section
/-!
DEFINITION. The operand forms of 30_encoding R72 and the values an instruction takes from them.
A register operand is `State.reg`, an immediate `NN` and a height `N` are used as they are; none is sign-extended.
-/

namespace Sys2Proof.Machine

/-- The address operand `NNN`: `zext_16(NNN)`, a byte address, not scaled (30_encoding R72). -/
def addrOperand (nnn : Addr12) : Word := nnn.zeroExtend 16

/-- A register's byte as a 16-bit addend: `zext_16(V[x])` (41_flow_and_stack R126, 44_index_memory R191). -/
def State.regWide (s : State) (x : Reg) : Word := (s.reg x).zeroExtend 16

/-- The implicit register of JP V0, NNN (30_encoding R72; log entry 8). -/
def regZero : Reg := 0#4

/-- The low nibble of a register, the value of the parameters `FONT_DIGIT` and `KEY_INDEX` (00_scope R7; log entries 10 and 11). -/
def lowNibble (b : Byte) : Nibble := b.extractLsb' 0 4

/-- `KEY[V[x] & 0xF]`: the state of the key a register names (42_skips R144). -/
def State.keyOf (s : State) (x : Reg) : Bool := s.keys[(lowNibble (s.reg x)).toNat]'(lowNibble (s.reg x)).isLt

/-- `min k with KEY[k]`: the lowest-indexed pressed key, if any is pressed (46_timers_keys R231). -/
def State.lowestKey (s : State) : Option Nat := (List.range 16).find? fun k => s.keys.getD k false

/-- The address of the glyph of a register's digit: `0x050 + 5 * (V[x] & 0xF)` (44_index_memory R192). -/
def State.glyphAddr (s : State) (x : Reg) : Word :=
  BitVec.ofNat 16 (Config.fontBase + Config.glyphBytes * (lowNibble (s.reg x)).toNat)

/-- The three decimal digits of a byte: hundreds, tens, ones (44_index_memory R193). -/
def decimalDigits (b : Byte) : List Byte :=
  [BitVec.ofNat 8 (b.toNat / 100), BitVec.ofNat 8 (b.toNat / 10 % 10), BitVec.ofNat 8 (b.toNat % 10)]

end Sys2Proof.Machine
end

