-- ==== Sys2Proof/Machine/Flow.lean ====
section
/-!
DEFINITION. Control transfer and the stack controller (41_flow_and_stack): RET, SYS, JP, CALL, JP V0.
In every meaning the pc has already advanced past the instruction (40_cycle R105).
-/

namespace Sys2Proof.Machine

/-- RET: pop the pc; an empty stack faults (R121). -/
def execRet (s : State) : Outcome :=
  if s.sp.val = 0 then raise .ret s .stackUnderflow
  else .next (s.setPc s.stackTop).pop

/-- SYS NNN: no effect (R120). -/
def execSys (_nnn : Addr12) (s : State) : Outcome := .next s

/-- JP NNN: `pc <- NNN` (R122). -/
def execJp (nnn : Addr12) (s : State) : Outcome := .next (s.setPc (addrOperand nnn))

/-- CALL NNN: push the address of the next instruction and jump; a full stack faults (R124). -/
def execCall (nnn : Addr12) (s : State) : Outcome :=
  if s.sp.val = Config.stackDepth then raise (.call nnn) s .stackOverflow
  else .next ((s.push s.pc).setPc (addrOperand nnn))

/-- JP V0, NNN: `pc <- NNN + V0`; the sum is at most 0x10FE, so 16 bits hold it exactly (R126). -/
def execJpV0 (nnn : Addr12) (s : State) : Outcome := .next (s.setPc (addrOperand nnn + s.regWide regZero))

end Sys2Proof.Machine
end

