-- ==== Sys2Proof/Machine/Index.lean ====
section
/-!
DEFINITION. The index register, the decimal split and the register-block transfers (44_index_memory).
An access through `I` is checked whole before any effect, so one that faults has done nothing (20_memory R55).
-/

namespace Sys2Proof.Machine

/-- LD I, NNN (R190). -/
def execLdI (nnn : Addr12) (s : State) : Outcome := .next (s.setIndex (addrOperand nnn))

/-- ADD I, Vx: wraps at 16 bits, VF is not written, no memory is accessed (R191). -/
def execAddI (x : Reg) (s : State) : Outcome := .next (s.setIndex (s.index + s.regWide x))

/-- LD F, Vx: the address of a font glyph (R192). -/
def execLdF (x : Reg) (s : State) : Outcome := .next (s.setIndex (s.glyphAddr x))

/-- LD B, Vx: the three decimal digits to `I`, `I + 1`, `I + 2` (R193). -/
def execLdB (x : Reg) (s : State) : Outcome :=
  accessAtIndex (.ldB x) 3 s fun s => s.setMem (s.mem.writeBytes s.index.toNat (decimalDigits (s.reg x)))

/-- LD [I], Vx: V0 to Vx stored from `I` on; `I` is unchanged (R195, R196). -/
def execLdMemVx (x : Reg) (s : State) : Outcome :=
  accessAtIndex (.ldMemVx x) (x.toNat + 1) s fun s => s.setMem (s.mem.writeBytes s.index.toNat (s.regBlock x))

/-- LD Vx, [I]: V0 to Vx loaded from `I` on; `I` is unchanged (R195, R197). -/
def execLdVxMem (x : Reg) (s : State) : Outcome :=
  accessAtIndex (.ldVxMem x) (x.toNat + 1) s fun s => s.loadBlock x

end Sys2Proof.Machine
end

