-- ==== Sys2Proof/Machine/Skips.lean ====
section
/-!
DEFINITION. The conditional skips (42_skips): SE, SNE, SKP, SKNP. A skip writes nothing but the pc (R146).
-/

namespace Sys2Proof.Machine

/-- SE Vx, NN: skip if `V[x] == NN` (R140). -/
def execSeImm (x : Reg) (nn : Byte) (s : State) : Outcome := .next (s.skipIf (s.reg x == nn))

/-- SNE Vx, NN: skip if `V[x] != NN` (R141). -/
def execSneImm (x : Reg) (nn : Byte) (s : State) : Outcome := .next (s.skipIf (s.reg x != nn))

/-- SE Vx, Vy: skip if `V[x] == V[y]` (R142). -/
def execSeReg (x y : Reg) (s : State) : Outcome := .next (s.skipIf (s.reg x == s.reg y))

/-- SNE Vx, Vy: skip if `V[x] != V[y]` (R143). -/
def execSneReg (x y : Reg) (s : State) : Outcome := .next (s.skipIf (s.reg x != s.reg y))

/-- SKP Vx: skip if the key that Vx names is pressed (R144). -/
def execSkp (x : Reg) (s : State) : Outcome := .next (s.skipIf (s.keyOf x))

/-- SKNP Vx: skip if the key that Vx names is not pressed (R145). -/
def execSknp (x : Reg) (s : State) : Outcome := .next (s.skipIf (!s.keyOf x))

end Sys2Proof.Machine
end

