-- ==== Sys2Proof/Machine/Timers.lean ====
section
/-!
DEFINITION. The timer and key-wait instructions (46_timers_keys). The per-cycle countdown is in Machine/Cycle.lean.
-/

namespace Sys2Proof.Machine

/-- LD Vx, DT: the value before this cycle's decrement (R230). -/
def execLdVxDt (x : Reg) (s : State) : Outcome := .next (s.setReg x s.dt)

/-- LD Vx, K: the lowest pressed key, or, when none is pressed, the pc rewound so that the same instruction runs again (R231). -/
def execLdVxK (x : Reg) (s : State) : Outcome :=
  match s.lowestKey with
  | some k => .next (s.setReg x (BitVec.ofNat 8 k))
  | none => .next (s.setPc s.fetchPc)

/-- LD DT, Vx (R232). -/
def execLdDtVx (x : Reg) (s : State) : Outcome := .next (s.setDt (s.reg x))

/-- LD ST, Vx (R233). -/
def execLdStVx (x : Reg) (s : State) : Outcome := .next (s.setSt (s.reg x))

end Sys2Proof.Machine
end

