-- ==== Sys2Proof/Machine/Cycle.lean ====
section
/-!
DEFINITION. One cycle (40_cycle R100): fetch, decode, advance, execute, check the pc, count the timers down;
and the arrival of a `Step`'s arguments, which comes first (10_state R35, R40, R42).
-/

namespace Sys2Proof.Machine

/-- The big-endian word at an address (20_memory R53). -/
def Memory.readWord (m : Memory) (a : Nat) : Word := wordOfBytes (m.read a) (m.read (a + 1))

/-- A word stored big-endian at an address, where both bytes lie in memory. -/
def Memory.placeWord (m : Memory) (a : Nat) (w : Word) : Memory :=
  if inRange a 2 then m.writeBytes a [highByte w, lowByte w] else m

/-- The fetch: the word at the pc, or none when a byte of it lies outside memory (40_cycle R101). -/
def State.fetch (s : State) : Option Word :=
  if inRange s.pc.toNat 2 then some (s.mem.readWord s.pc.toNat) else none

/-- The fetch's fault: no opcode, the lowest address outside memory (40_cycle R101). -/
def State.fetchFault (s : State) : Fault := .memoryOutOfRange (lowestBad s.pc.toNat) none s.pc

/-- A nonzero timer goes down by 1, a zero timer stays (40_cycle R106). -/
def countDown (t : Byte) : Byte := if t = 0#8 then t else t - 1#8

/-- The timer countdown of a cycle that returns Ok (40_cycle R106). -/
def State.countTimers (s : State) : State := { s with dt := countDown s.dt, st := countDown s.st }

/-- The end of a cycle whose word `w` was fetched at `pcf`: the pc check, then the countdown (40_cycle R100, R106, R108).
A fault of the instruction itself ends the cycle as it is (R109). -/
def endCycle (w pcf : Word) : Outcome → Outcome
  | .next t =>
    if t.pc.toNat < Config.memSize then .next t.countTimers
    else .fault (.memoryOutOfRange t.pc.toNat (some w) pcf)
  | .fault f => .fault f
  | .refused r => .refused r

/-- A fetched word decoded and run (40_cycle R102 to R104). The faults come in the order of 60_exceptions R258. -/
def runWord (w : Word) (s : State) : Outcome :=
  match decode w with
  | .invalid bad => .fault (.invalidInstruction bad s.pc)
  | .instr i => endCycle w s.pc (exec i s.advance)

/-- `Step(s, K, R)` with `K` and `R` standing in the state's `keys` and `rand` (40_cycle R100; log entry 1). -/
def cycle (s : State) : Outcome :=
  match s.fetch with
  | none => .fault s.fetchFault
  | some w => runWord w s

/-- `KEY := K; RAND := R`: the arguments of a `Step` put in place (40_cycle R100). -/
def State.withInput (k : Input) (s : State) : State := { s with keys := k.keys, rand := k.rand }

/-- The arguments of the coming `Step`: those already decided if there are any, else free values (10_state R35, R40; log entries 2 and 3). -/
def State.nextInput (s : State) : Input :=
  match s.inputs with
  | k :: _ => k
  | [] => ⟨Config.keypad s.draws, Config.randomByte s.draws⟩

/-- What the host loop and the input collaborator do before a cycle: the `Step`'s arguments arrive (70_reset_and_hazards R291; log entry 1).
The keys that stood in the state, the power-on keys among them, are written over as R280 says. -/
def State.arrive (s : State) : State :=
  { s.withInput s.nextInput with inputs := s.inputs.tail, draws := s.draws + 1 }

end Sys2Proof.Machine
end

