-- ==== Sys2Proof/Machine/Step.lean ====
section
/-!
DEFINITION. The machine's one step: the arrival of a cycle's inputs, and the cycle. Everything it does is in Machine/Cycle.lean.
-/

namespace Sys2Proof.Machine

/-- One call of `Step`: its arguments arrive, then the cycle runs on them (40_cycle R100; log entries 1 to 3). -/
def step (s : State) : Host.Outcome State Fault Refusal := cycle s.arrive

/-- `s` with the instruction of a table word stored where `step` fetches: big-endian at the pc, where that lies in memory (log entry 33). -/
def State.withFetchWord (s : State) (nbits w : Nat) : State :=
  s.setMem (s.mem.placeWord s.pc.toNat (tableWord nbits w))

end Sys2Proof.Machine
end

