-- ==== Sys2Proof/Machine/HostInterface.lean ====
section
/-!
DEFINITION. The operations the block offers the host: PowerOn, Load, Step(K, R) and HostSkip (10_state R42), and when each is offered.
The block keeps no record of a fault (10_state R41): what the host must remember stands in a Session beside the state.
-/

namespace Sys2Proof.Machine

/-- `Load` on the block itself: the image copied verbatim from 0x200 on, or ProgramTooLarge (70_reset_and_hazards R284). -/
def loadImage (image : List Byte) (s : State) : Outcome :=
  if image.length ≤ Config.memSize - Config.progBase then .next (s.setMem (s.mem.writeBytes Config.progBase image))
  else .fault (.programTooLarge image.length)

/-- `HostSkip` on the block itself: `pc <- pc + 2` and nothing else (60_exceptions R262). -/
def hostSkip (s : State) : State := s.setPc (s.pc + instrBytes)

/-- One run of the block as the host sees it: the block, which calls were made (70_reset_and_hazards R283), and the last call's fault (60_exceptions R262; log entry 32). -/
structure Session where
  block : State
  loaded : Bool
  stepped : Bool
  lastFault : Option Fault
  deriving DecidableEq, Repr

/-- The calls of 10_state R42. -/
inductive HostCall where
  | powerOn
  | load (image : List Byte)
  | step (k : Input)
  | hostSkip
  deriving DecidableEq, Repr

/-- What a call answers. -/
inductive Reply where
  | ok
  | fault (f : Fault)
  | refused (r : Refusal)
  deriving DecidableEq, Repr

/-- The session right after PowerOn (70_reset_and_hazards R280). -/
def Session.start : Session := ⟨State.reset, false, false, none⟩

/-- The session after an outcome: a fault or a refusal leaves the block as it was (60_exceptions R256). -/
def Session.after (h : Session) : Outcome → Session × Reply
  | .next t => (⟨t, h.loaded, h.stepped, none⟩, .ok)
  | .fault f => (⟨h.block, h.loaded, h.stepped, some f⟩, .fault f)
  | .refused r => (h, .refused r)

/-- `Load`: once, before the first `Step`; a later call is refused (70_reset_and_hazards R283). -/
def Session.load (h : Session) (image : List Byte) : Session × Reply :=
  if h.stepped then (h, .refused .loadAfterStep)
  else if h.loaded then (h, .refused .loadTwice)
  else match loadImage image h.block with
    | .next t => ({ h with block := t, loaded := true, lastFault := none }, .ok)
    | .fault f => ({ h with lastFault := some f }, .fault f)
    | .refused r => (h, .refused r)

/-- The faults after which the block makes no further progress: all but InvalidInstruction, which is recoverable, and `Load`'s own
(93_implementation_defined I10; 60_exceptions R262). -/
def Fault.fatal : Fault → Bool
  | .stackOverflow _ _ | .stackUnderflow _ _ | .memoryOutOfRange _ _ _ => true
  | .invalidInstruction _ _ | .programTooLarge _ => false

/-- The fatal fault a session is stuck on, if its last call ended with one (93_implementation_defined I10). -/
def Session.stuckOn (h : Session) : Option Fault := h.lastFault.filter Fault.fatal

/-- `Step(K, R)` (40_cycle R100). After a fatal fault it repeats that fault, whatever `K` and `R` are, and only PowerOn leaves
(40_cycle R110, 60_exceptions R261, 93_implementation_defined I10; log entry 26). -/
def Session.step (h : Session) (k : Input) : Session × Reply :=
  match h.stuckOn with
  | some f => ({ h with stepped := true }, .fault f)
  | none => { h with stepped := true }.after (cycle (h.block.withInput k))

/-- `HostSkip`: offered after InvalidInstruction, and only then (60_exceptions R262). -/
def Session.hostSkip (h : Session) : Session × Reply :=
  match h.lastFault with
  | some (.invalidInstruction _ _) => ({ h with block := Sys2Proof.Machine.hostSkip h.block, lastFault := none }, .ok)
  | _ => (h, .refused .skipNotOffered)

/-- One call of the host. PowerOn may be called at any time and starts over (60_exceptions R261, 70_reset_and_hazards R282). -/
def Session.call (h : Session) : HostCall → Session × Reply
  | .powerOn => (Session.start, .ok)
  | .load image => h.load image
  | .step k => h.step k
  | .hostSkip => h.hostSkip

end Sys2Proof.Machine
end

