-- ==== Sys2Proof/Safety.lean ====
section
/-!
DEFINITION. The terms claims are stated in: what a well-formed state is, what a step or an instruction leaves unchanged,
and what kind of outcome a step has.
-/

namespace Sys2Proof.Machine

/-! ### Invariants -/

/-- The pc lies inside memory: "`pc` must remain within Memory bounds after every advance" (40_cycle R108). -/
abbrev State.pcInBounds (s : State) : Prop := s.pc.toNat ≤ 0xFFF

/-- Every saved return address is one a CALL can have saved: the address after an instruction that lay in memory (41_flow_and_stack R124). -/
abbrev State.stackSound (s : State) : Prop :=
  ∀ k : Fin 16, k.val < s.sp.val → 2 ≤ s.stack[k].toNat ∧ s.stack[k].toNat ≤ 0x1000

/-- The well-formed states: memory in its canonical form, the pc in bounds, the saved addresses sound.
That SP is at most 16 (10_state R28) is in its type. -/
abbrev State.Inv (s : State) : Prop := s.mem.wf ∧ s.pcInBounds ∧ s.stackSound

/-! ### Frames -/

/-- The pieces of state that an instruction may or may not change, down to one register, one byte of memory, one pixel. -/
inductive Field where
  | reg (x : Reg)
  | index
  | pc
  | stackEntry (k : Fin 16)
  | sp
  | dt
  | st
  | keys
  | pixel (p : Pixel)
  | byte (a : Nat)
  | randomByte
  | pendingInputs
  deriving DecidableEq, Repr

/-- A piece of state holds the same in two states; a byte of memory through the read of one byte, a pixel through the read of one pixel. -/
def Field.same (s t : State) : Field → Prop
  | .reg x => t.reg x = s.reg x
  | .index => t.index = s.index
  | .pc => t.pc = s.pc
  | .stackEntry k => t.stack[k] = s.stack[k]
  | .sp => t.sp = s.sp
  | .dt => t.dt = s.dt
  | .st => t.st = s.st
  | .keys => t.keys = s.keys
  | .pixel p => t.fb.get p = s.fb.get p
  | .byte a => t.mem.read a = s.mem.read a
  | .randomByte => t.rand = s.rand
  | .pendingInputs => t.inputs = s.inputs ∧ t.draws = s.draws

/-- Every piece of state outside `changed` is the same before and after. -/
def unchangedBut (changed : Field → Prop) (s t : State) : Prop := ∀ f, ¬changed f → f.same s t

/-- Every piece of state outside a list is the same before and after. -/
abbrev onlyChanges (fs : List Field) (s t : State) : Prop := unchangedBut (· ∈ fs) s t

/-! ### The instruction at the pc -/

/-- The two bytes at the pc, as one big-endian word (40_cycle R101). -/
def State.wordAt (s : State) : Word := wordOfBytes (s.mem.read s.pc.toNat) (s.mem.read (s.pc.toNat + 1))

/-- The pc lies where both bytes can be fetched, and they decode to the instruction `i`. -/
abbrev State.atInstr (s : State) (i : Instr) : Prop := s.pc.toNat ≤ 0xFFE ∧ decode s.wordAt = .instr i

/-- The three forms that read the keypad (10_state R32). -/
def readsKeys : Instr → Bool
  | .skp _ | .sknp _ | .ldVxK _ => true
  | _ => false

/-- The four forms that access memory (20_memory R54). -/
def accessesMemory : Instr → Bool
  | .drw _ _ _ | .ldB _ | .ldMemVx _ | .ldVxMem _ => true
  | _ => false

/-- The forms that may write the pc: transfers, skips and the key-wait. -/
def writesPc : Instr → Bool
  | .ret | .jp _ | .call _ | .jpV0 _ | .seImm _ _ | .sneImm _ _ | .seReg _ _ | .sneReg _ _ | .skp _ | .sknp _ | .ldVxK _ => true
  | _ => false

/-! ### What an instruction reads -/

/-- The next state changed by a function; a fault or a refusal as it is. -/
def mapNext (g : State → State) : Outcome → Outcome
  | .next t => .next (g t)
  | .fault f => .fault f
  | .refused r => .refused r

/-- The stack replaced whole. -/
def State.withStack (s : State) (k : Vector Word 16) (p : Fin 17) : State := { s with stack := k, sp := p }

/-- The condition of a skip, from the rule of each of the six (42_skips R140 to R145); none for every other form. -/
def State.skipCondition (s : State) : Instr → Option Bool
  | .seImm x nn => some (decide (s.reg x = nn))
  | .sneImm x nn => some (decide (s.reg x ≠ nn))
  | .seReg x y => some (decide (s.reg x = s.reg y))
  | .sneReg x y => some (decide (s.reg x ≠ s.reg y))
  | .skp x => some (s.keys.getD ((s.reg x).toNat % 16) false)
  | .sknp x => some (!s.keys.getD ((s.reg x).toNat % 16) false)
  | _ => none

/-- The pixels that a sprite of `n` rows at column `V[x]`, row `V[y]` has a set bit for (45_display R211, R212). -/
def State.spriteCovers (s : State) (x y : Reg) (n : Nibble) (p : Pixel) : Prop :=
  ∃ r, r < n.toNat ∧ ∃ c, c < 8 ∧ (s.mem.read (s.index.toNat + r)).getLsbD (7 - c) = true ∧
    p.1.val = ((s.reg x).toNat + c) % 64 ∧ p.2.val = ((s.reg y).toNat + r) % 32

/-- The register an instruction names as its ordinary destination, if it names one. -/
def destination : Instr → Option Reg
  | .ldImm x _ | .addImm x _ | .ldReg x _ | .orReg x _ | .andReg x _ | .xorReg x _ | .addReg x _ | .sub x _
  | .shr x | .subn x _ | .shl x | .rnd x _ | .ldVxDt x | .ldVxK x | .ldVxMem x => some x
  | _ => none

/-- The forms that write VF as a flag (10_state R21). -/
def writesFlag : Instr → Bool
  | .addReg _ _ | .sub _ _ | .shr _ | .subn _ _ | .shl _ | .drw _ _ _ => true
  | _ => false

/-! ### Outcomes -/

/-- The call ended with a fault of this kind. -/
def faultsWith (k : FaultKind) : Outcome → Prop
  | .fault f => f.kind = k
  | .next _ | .refused _ => False

/-- A safe step: it answers a next state. -/
def State.stepsOk (s : State) : Prop := ∃ t, step s = .next t

/-- `n` steps in a row answer a next state each: a safe run of `n` cycles. -/
def State.runsOk : Nat → State → Prop
  | 0, _ => True
  | n + 1, s => ∃ t, step s = .next t ∧ t.runsOk n

end Sys2Proof.Machine
end

