-- ==== Sys2Proof/Certificates/Slice0/Obligations.lean ====
section
/-!
DEFINITION. The statements for the provers, made from the numbered rules of spec/. Notes/assumptions holds what is the model's own choice.
`exec` runs an instruction whose pc has already advanced (40_cycle R105), so at its level `pc_f` is `s.pc - 2`.
-/

open Sys2Proof Sys2Proof.Machine

/-! ### Encoding (30_encoding) -/

/-- Decoding the word of a well-formed instruction gives it back, for every form and every operand (R73, R74). -/
def Obligations.DecodeInvertsEncode : Prop :=
  ∀ i : Instr, i.wellFormed = true → decode (encode i) = .instr i

/-- A decoded word is the encoding of its instruction, but for the `Y` field that SHR and SHL ignore (R73, R76). -/
def Obligations.EncodeInvertsDecode : Prop :=
  ∀ (w : Word) (i : Instr), decode w = .instr i →
    i.wellFormed = true ∧
    encode i = match i with
      | .shr _ | .shl _ => w &&& 0xFF0F#16
      | _ => w

/-- A word is `Invalid` exactly when it matches no row of the opcode table, and `Invalid` carries the raw word (R75, R77). -/
def Obligations.InvalidExactlyWhenNoRowMatches : Prop :=
  ∀ w : Word, ((∃ v, decode w = .invalid v) ↔ ∀ r ∈ opcodeTable, r.matches w = false) ∧
    ∀ v, decode w = .invalid v → v = w

/-- The form a word decodes to is the one whose row matches first, from the top of the table (R73). -/
def Obligations.DecodedFormIsFirstMatchingRow : Prop :=
  ∀ (w : Word) (i : Instr), decode w = .instr i → opcodeTable.find? (·.matches w) = some i.row

/-- The ignored bits: SYS has no effect whatever `NNN` holds, SHR and SHL decode the same for every `Y`; every other bit of every
form is matched or used, so two words of one form with the same fields are the same word (R76). -/
def Obligations.OnlySysAndShiftsIgnoreBits : Prop :=
  (∀ (n m : Addr12) (s : State), exec (.sys n) s = exec (.sys m) s) ∧
  (∀ x y z : Reg, decode (packXYN 0x8#4 x y 0x6#4) = decode (packXYN 0x8#4 x z 0x6#4)) ∧
  (∀ x y z : Reg, decode (packXYN 0x8#4 x y 0xE#4) = decode (packXYN 0x8#4 x z 0xE#4)) ∧
  (∀ (w w' : Word) (i : Instr), decode w = .instr i → decode w' = .instr i →
    (∀ x, i ≠ .shr x) → (∀ x, i ≠ .shl x) → w = w')

/-- Under `SYS_MODE = invalid` the group-0 words other than the two exact ones are `Invalid`, and every other word decodes as before (R74, R77). -/
def Obligations.SysModeOnlyRemovesSys : Prop :=
  ∀ w : Word, decodeWith .invalid w =
    if fieldG w = 0#4 ∧ w ≠ 0x00E0#16 ∧ w ≠ 0x00EE#16 then .invalid w else decodeWith .nop w

/-- Words written out from the table decode to the instructions they stand for; a sanity statement (R73, R77). -/
def Obligations.KnownWordsDecode : Prop :=
  decode 0x00E0#16 = .instr .cls ∧ decode 0x00EE#16 = .instr .ret ∧ decode 0x0123#16 = .instr (.sys 0x123#12) ∧
  decode 0x3342#16 = .instr (.seImm 0x3#4 0x42#8) ∧ decode 0x8125#16 = .instr (.sub 0x1#4 0x2#4) ∧
  decode 0xA300#16 = .instr (.ldI 0x300#12) ∧ decode 0xD125#16 = .instr (.drw 0x1#4 0x2#4 0x5#4) ∧
  decode 0xE59E#16 = .instr (.skp 0x5#4) ∧ decode 0xF30A#16 = .instr (.ldVxK 0x3#4) ∧
  decode 0xF265#16 = .instr (.ldVxMem 0x2#4) ∧ decode 0x5121#16 = .invalid 0x5121#16 ∧ decode 0x8128#16 = .invalid 0x8128#16

/-- The host's helper places the word where the next fetch reads it and touches nothing else; the model's own helper. -/
def Obligations.FetchWordHelperPlacesTheWord : Prop :=
  ∀ (s : State) (w : Nat), s.pc.toNat ≤ 0xFFE → w < 65536 →
    (s.withFetchWord 16 w).fetch = some (BitVec.ofNat 16 w) ∧
    onlyChanges [.byte s.pc.toNat, .byte (s.pc.toNat + 1)] s (s.withFetchWord 16 w) ∧
    decodeTableWord 16 w = (decode (BitVec.ofNat 16 w)).toOption

/-! ### Reset (70_reset_and_hazards) -/

/-- Every piece of state at its power-on value (R280, with the font table of 10_state R37). -/
def Obligations.PowerOnState : Prop :=
  (∀ x, State.reset.reg x = 0#8) ∧ State.reset.index = 0#16 ∧ State.reset.pc = 0x200#16 ∧
  State.reset.sp = 0 ∧ (∀ k : Fin 16, State.reset.stack[k] = 0#16) ∧
  State.reset.dt = 0#8 ∧ State.reset.st = 0#8 ∧
  (∀ p, State.reset.fb.get p = false) ∧ (∀ k : Fin 16, State.reset.keys[k] = false) ∧
  State.reset.mem.readBytes 0x050 80 = fontTable ∧
  (∀ a, a < 0x050 ∨ 0x09F < a → State.reset.mem.read a = 0#8)

/-- The power-on state is well-formed: memory in canonical form, the pc in bounds, the empty stack sound. -/
def Obligations.ResetSatisfiesInv : Prop := State.reset.Inv

/-! ### The cycle (40_cycle) -/

/-- `Step(s, K, R)` is the pseudocode of R100, for every state, every keypad snapshot and every random byte. -/
def Obligations.CycleFollowsThePseudocode : Prop :=
  ∀ (s : State) (k : Input), cycle (s.withInput k) =
    if 4096 < s.pc.toNat + 2 then .fault (.memoryOutOfRange (max s.pc.toNat 4096) none s.pc)
    else match decode s.wordAt with
      | .invalid _ => .fault (.invalidInstruction s.wordAt s.pc)
      | .instr i =>
        match exec i { s with keys := k.keys, rand := k.rand, pc := s.pc + 2#16 } with
        | .next t =>
          if 0xFFF < t.pc.toNat then .fault (.memoryOutOfRange t.pc.toNat (some s.wordAt) s.pc)
          else .next { t with
            dt := if t.dt ≠ 0#8 then t.dt - 1#8 else t.dt
            st := if t.st ≠ 0#8 then t.st - 1#8 else t.st }
        | .fault f => .fault f
        | .refused r => .refused r

/-- A step is a cycle on the inputs that arrive for it, and at a decoded instruction it is `exec` of that instruction, with the model's
own names for what stands around: the arrival of the inputs and the advance of the pc before, the pc check and the countdown after. -/
def Obligations.StepRunsDecodedInstruction : Prop :=
  ∀ s : State, step s = cycle s.arrive ∧
    ∀ i : Instr, s.atInstr i → step s = endCycle s.wordAt s.pc (exec i s.arrive.advance)

/-- The inputs that arrive for a step, the first one after power-on among them: those already decided, oldest first, else free values; the model's choice
(log entries 1, 2 and 3). It holds for every value of `Config.keypad` and `Config.randomByte`. -/
def Obligations.NextInputsArrive : Prop :=
  ∀ s : State,
    (∀ k ks, s.inputs = k :: ks → s.arrive.keys = k.keys ∧ s.arrive.rand = k.rand ∧ s.arrive.inputs = ks) ∧
    (s.inputs = [] → s.arrive.keys = Config.keypad s.draws ∧ s.arrive.rand = Config.randomByte s.draws ∧ s.arrive.inputs = []) ∧
    s.arrive.draws = s.draws + 1 ∧ onlyChanges [.keys, .randomByte, .pendingInputs] s s.arrive

/-- The fetch reads the two bytes at the pc as one big-endian word, or faults with the lowest address outside memory and no opcode (R101). -/
def Obligations.FetchReadsWordOrFaults : Prop :=
  ∀ s : State,
    (0xFFF ≤ s.pc.toNat → step s = .fault (.memoryOutOfRange (max s.pc.toNat 0x1000) none s.pc)) ∧
    (s.pc.toNat < 0xFFF → s.fetch = some (s.mem.read s.pc.toNat ++ s.mem.read (s.pc.toNat + 1)))

/-- Executing `Invalid(w)` is a fault that names the opcode and the fetch address, whatever else the state holds (R78). -/
def Obligations.InvalidWordFaults : Prop :=
  ∀ (s : State) (w : Word), s.pc.toNat ≤ 0xFFE → decode s.wordAt = .invalid w →
    step s = .fault (.invalidInstruction s.wordAt s.pc) ∧
    (Fault.invalidInstruction s.wordAt s.pc).record =
      ⟨.invalidInstruction, 1, some s.wordAt, some s.pc, none, none⟩

/-- After the instruction and the pc check, each nonzero timer goes down by exactly 1 and a zero timer stays, whatever instruction
ran; nothing else changes (R106). -/
def Obligations.TimersCountDownOncePerCycle : Prop :=
  ∀ s t : State, cycle s = .next t →
    ∃ i u, s.atInstr i ∧ exec i s.advance = .next u ∧ u.pc.toNat ≤ 0xFFF ∧
      t.dt.toNat = u.dt.toNat - 1 ∧ t.st.toNat = u.st.toNat - 1 ∧ onlyChanges [.dt, .st] u t

/-- The pc check: a step that completes leaves the pc inside memory, and a cycle whose instruction leaves it outside faults with it;
JP and CALL always pass the check, and so does a key-wait that finds no key (R108). -/
def Obligations.PcStaysInsideMemory : Prop :=
  (∀ s t : State, step s = .next t → t.pc.toNat ≤ 0xFFF) ∧
  (∀ (s u : State) (i : Instr), s.atInstr i → exec i s.advance = .next u → 0xFFF < u.pc.toNat →
    cycle s = .fault (.memoryOutOfRange u.pc.toNat (some s.wordAt) s.pc)) ∧
  (∀ (s u : State) (i : Instr), s.atInstr i → exec i s.advance = .next u →
    ((∃ n, i = .jp n) ∨ (∃ n, i = .call n) ∨ ((∃ x, i = .ldVxK x) ∧ ∀ k : Fin 16, s.keys[k] = false)) →
    ∃ t, cycle s = .next t)

/-- Every step keeps the invariant: memory in canonical form, the pc in bounds, every saved return address the address after an
instruction that lay in memory. -/
def Obligations.EveryStepKeepsInv : Prop :=
  ∀ s t : State, s.Inv → step s = .next t → t.Inv

/-- There is no third outcome: a step answers a next state or one of the four faults of a cycle, never a refusal and never
`Load`'s fault (00_scope R11). -/
def Obligations.StepAnswersNextOrFault : Prop :=
  ∀ s : State, (∃ t, step s = .next t) ∨ ∃ f, step s = .fault f ∧ f.kind ≠ .programTooLarge

/-- One fault per cycle, the first in the order fetch, `Invalid`, the instruction's own check, the pc check; and the six forms with
a check of their own have one each (60_exceptions R258). -/
def Obligations.FaultsComeInOrder : Prop :=
  ∀ s : State,
    (0xFFE < s.pc.toNat → cycle s = .fault (.memoryOutOfRange (max s.pc.toNat 4096) none s.pc)) ∧
    (∀ w, s.pc.toNat ≤ 0xFFE → decode s.wordAt = .invalid w → cycle s = .fault (.invalidInstruction s.wordAt s.pc)) ∧
    (∀ i f, s.atInstr i → exec i s.advance = .fault f → cycle s = .fault f) ∧
    (∀ i u, s.atInstr i → exec i s.advance = .next u → 0xFFF < u.pc.toNat →
      cycle s = .fault (.memoryOutOfRange u.pc.toNat (some s.wordAt) s.pc)) ∧
    (∀ i f, exec i s = .fault f →
      ((∃ n, i = .call n) ∧ f.kind = .stackOverflow) ∨ (i = .ret ∧ f.kind = .stackUnderflow) ∨
      (accessesMemory i = true ∧ f.kind = .memoryOutOfRange))

/-- R110 read literally of one bare cycle: a cycle that faults does so whatever the keypad and the random byte are. EXPECTED TO FAIL: by
the pseudocode of R100 a key-wait at 0xFFE rewinds with no key pressed and runs out of memory with one pressed (log entry 26). What the
host sees of a repeated `Step` is FaultRepeatsUntilPowerOn. -/
def Obligations.FaultIgnoresAllInputs : Prop :=
  ∀ (s : State) (k k' : Input) (f : Fault), cycle (s.withInput k) = .fault f → cycle (s.withInput k') = .fault f

/-- What holds of R110 for one bare cycle: the random byte never decides a fault, and the keypad decides one only under SKP, SKNP and LD Vx, K. -/
def Obligations.FaultIgnoresInputsButKeyForms : Prop :=
  (∀ (s : State) (k : Vector Bool 16) (r r' : Byte) (f : Fault),
    cycle (s.withInput ⟨k, r⟩) = .fault f → cycle (s.withInput ⟨k, r'⟩) = .fault f) ∧
  (∀ (s : State) (k k' : Input) (f : Fault), (∀ i, s.atInstr i → readsKeys i = false) →
    cycle (s.withInput k) = .fault f → cycle (s.withInput k') = .fault f)

/-! ### The host's operations (10_state R42) -/

/-- `Load` copies an image of at most 3584 bytes verbatim from 0x200 on and changes nothing else; a longer one faults (R284). -/
def Obligations.LoadCopiesImageOrFaults : Prop :=
  ∀ (image : List Byte) (s : State),
    (image.length ≤ 3584 → ∃ t, loadImage image s = .next t ∧
      (∀ k, k < image.length → t.mem.read (0x200 + k) = image.getD k 0#8) ∧
      unchangedBut (fun f => ∃ k, k < image.length ∧ f = .byte (0x200 + k)) s t) ∧
    (3584 < image.length → loadImage image s = .fault (.programTooLarge image.length))

/-- A `Load` before the first `Step` and after no other completed `Load` does what `Load` on the block does; a second one is refused, and
so is every one once a `Step` was called; no call but PowerOn makes the host forget either (R283; log entries 22 and 32). -/
def Obligations.LoadOnlyBeforeFirstStep : Prop :=
  ∀ h : Session,
    (∀ image t, h.stepped = false → h.loaded = false → loadImage image h.block = .next t →
      h.load image = ({ h with block := t, loaded := true, lastFault := none }, .ok)) ∧
    (∀ image f, h.stepped = false → h.loaded = false → loadImage image h.block = .fault f →
      h.load image = ({ h with lastFault := some f }, .fault f)) ∧
    (∀ image, h.stepped = false → h.loaded = true → h.load image = (h, .refused .loadTwice)) ∧
    (∀ image, h.stepped = true → h.load image = (h, .refused .loadAfterStep)) ∧
    (∀ k, (h.step k).1.stepped = true) ∧
    (∀ c, c ≠ .powerOn → (h.stepped = true → (h.call c).1.stepped = true) ∧ (h.loaded = true → (h.call c).1.loaded = true)) ∧
    h.call .powerOn = (Session.start, .ok)

/-- `HostSkip` is offered after InvalidInstruction and only then; it adds 2 to the pc and changes nothing else; the pc of an invalid
instruction is at most 0xFFE, and after a skip to 0x1000 the next `Step` faults at the fetch (R262). -/
def Obligations.HostSkipOnlyAfterInvalid : Prop :=
  ∀ h : Session,
    (∀ w p, h.lastFault = some (.invalidInstruction w p) →
      ∃ g, h.hostSkip = (g, .ok) ∧ g.block.pc = h.block.pc + 2#16 ∧ onlyChanges [.pc] h.block g.block) ∧
    ((∀ w p, h.lastFault ≠ some (.invalidInstruction w p)) → h.hostSkip = (h, .refused .skipNotOffered)) ∧
    (∀ k w p, (h.step k).2 = .fault (.invalidInstruction w p) →
      (h.step k).1.lastFault = some (.invalidInstruction w p) ∧ h.block.pc.toNat ≤ 0xFFE) ∧
    (∀ k w p, h.lastFault = some (.invalidInstruction w p) → h.block.pc = 0xFFE#16 →
      (h.hostSkip.1.step k).2 = .fault (.memoryOutOfRange 0x1000 none 0x1000#16))

/-- A fault leaves the whole block as it was, in a `Step` and in a `Load` (60_exceptions R256). -/
def Obligations.FaultLeavesBlockUnchanged : Prop :=
  ∀ (h : Session) (f : Fault),
    (∀ k, (h.step k).2 = .fault f → (h.step k).1.block = h.block) ∧
    (∀ image, (h.load image).2 = .fault f → (h.load image).1.block = h.block)

/-- A `Step` after a fault repeats that fault, whatever the keypad and the random byte are, with the block as it was; after a fatal fault
(any but InvalidInstruction) every call but PowerOn leaves the session as it is and answers no Ok, and PowerOn starts over
(the spec's own inference, 40_cycle R110: "A cycle that faulted from `s` faults in the same way from `s` again, whatever `K` and `R` are";
60_exceptions R261; 93_implementation_defined I10). -/
def Obligations.FaultRepeatsUntilPowerOn : Prop :=
  (∀ (h : Session) (k k' : Input) (f : Fault), (h.step k).2 = .fault f →
    ((h.step k).1.step k').2 = .fault f ∧ ((h.step k).1.step k').1.block = h.block) ∧
  (∀ (h : Session) (k : Input) (f : Fault) (c : HostCall), (h.step k).2 = .fault f → (∀ w p, f ≠ .invalidInstruction w p) →
    c ≠ .powerOn → ((h.step k).1.call c).1 = (h.step k).1 ∧ ((h.step k).1.call c).2 ≠ .ok) ∧
  (∀ h : Session, h.call .powerOn = (Session.start, .ok))

/-! ### Control transfer and the stack (41_flow_and_stack) -/

/-- SYS has no effect: the pc stays after it, the timers still count down, the pc check still applies; the zero word is SYS, and under
`SYS_MODE = invalid` the word is `Invalid` (R120). -/
def Obligations.SysIsANoOp : Prop :=
  (∀ (n : Addr12) (s : State), exec (.sys n) s = .next s) ∧
  decode 0x0000#16 = .instr (.sys 0#12) ∧
  (∀ n : Addr12, n ≠ 0x0E0#12 → n ≠ 0x0EE#12 →
    decode (packNNN 0x0#4 n) = .instr (.sys n) ∧ decodeWith .invalid (packNNN 0x0#4 n) = .invalid (packNNN 0x0#4 n)) ∧
  (∀ (n : Addr12) (s : State), s.atInstr (.sys n) →
    (s.pc.toNat = 0xFFE → step s = .fault (.memoryOutOfRange 0x1000 (some s.wordAt) s.pc)) ∧
    (s.pc.toNat < 0xFFE → ∃ t, cycle s = .next t ∧ t.pc.toNat = s.pc.toNat + 2 ∧
      t.dt.toNat = s.dt.toNat - 1 ∧ t.st.toNat = s.st.toNat - 1 ∧ onlyChanges [.pc, .dt, .st] s t))

/-- RET pops the pc, the one a CALL pushed, or faults on an empty stack before anything changes; a popped 0x1000 fails the pc check (R121). -/
def Obligations.ReturnPopsOrUnderflows : Prop :=
  decode 0x00EE#16 = .instr .ret ∧
  (∀ (n : Addr12) (s t : State), exec (.call n) s = .next t → t.stack.getD (t.sp.val - 1) 0#16 = s.pc) ∧
  (∀ s : State, s.sp.val = 0 → exec .ret s = .fault (.stackUnderflow 0x00EE#16 (s.pc - 2#16))) ∧
  (∀ s : State, s.sp.val ≠ 0 → ∃ t, exec .ret s = .next t ∧
    t.pc = s.stack.getD (s.sp.val - 1) 0#16 ∧ t.sp.val = s.sp.val - 1 ∧ onlyChanges [.pc, .sp] s t) ∧
  (∀ s : State, s.atInstr .ret → s.sp.val ≠ 0 → s.stack.getD (s.sp.val - 1) 0#16 = 0x1000#16 →
    step s = .fault (.memoryOutOfRange 0x1000 (some 0x00EE#16) s.pc))

/-- JP sets the pc to the 12-bit address, odd or even, and the pc check always passes; a jump to itself runs for ever: every step
completes, leaves the same jump at the same pc, and counts the timers down (R122). -/
def Obligations.JumpSetsPc : Prop :=
  (∀ (n : Addr12) (s : State), decode (packNNN 0x1#4 n) = .instr (.jp n) ∧
    ∃ t, exec (.jp n) s = .next t ∧ t.pc.toNat = n.toNat ∧ t.pc.toNat ≤ 0xFFF ∧
    onlyChanges [.pc] s t) ∧
  (∀ (n : Addr12) (s : State), s.atInstr (.jp n) → n.toNat = s.pc.toNat →
    (∀ k, s.runsOk k) ∧
    ∀ t, step s = .next t → t.atInstr (.jp n) ∧ t.pc = s.pc ∧ t.mem = s.mem ∧ t.dt.toNat = s.dt.toNat - 1 ∧ t.st.toNat = s.st.toNat - 1)

/-- CALL pushes the address of the next instruction and jumps, or faults on a full stack before anything changes (R124). -/
def Obligations.CallPushesOrOverflows : Prop :=
  ∀ (n : Addr12) (s : State),
    decode (packNNN 0x2#4 n) = .instr (.call n) ∧
    (s.sp.val = 16 → exec (.call n) s = .fault (.stackOverflow (packNNN 0x2#4 n) (s.pc - 2#16))) ∧
    (∀ h : s.sp.val < 16, ∃ t, exec (.call n) s = .next t ∧
      t.stack[s.sp.val] = s.pc ∧ t.sp.val = s.sp.val + 1 ∧ t.pc.toNat = n.toNat ∧
      onlyChanges [.pc, .sp, .stackEntry ⟨s.sp.val, h⟩] s t)

/-- A RET that finds the stack as a CALL left it returns to the instruction after the CALL, with the depth of before; no other
instruction reads or writes the stack (the spec's own inference, R125: "A RET executed after a CALL with no call or return between them
returns to the instruction after the CALL"). -/
def Obligations.ReturnComesBackAfterCall : Prop :=
  (∀ (n : Addr12) (s t u : State), exec (.call n) s = .next t → u.stack = t.stack → u.sp = t.sp →
    ∃ r, exec .ret u = .next r ∧ r.pc = s.pc ∧ r.sp = s.sp) ∧
  (∀ (i : Instr) (s : State) (k : Vector Word 16) (p : Fin 17), i ≠ .ret → (∀ n, i ≠ .call n) →
    exec i (s.withStack k p) = mapNext (·.withStack k p) (exec i s))

/-- JP V0, NNN sets the pc to the exact sum of the address and V0, never another register; above 0xFFF the cycle faults with the sum;
with V0 zero it is JP (R126). -/
def Obligations.IndexedJumpAddsV0 : Prop :=
  ∀ (n : Addr12) (s : State),
    (decode (packNNN 0xB#4 n) = .instr (.jpV0 n) ∧
      ∃ t, exec (.jpV0 n) s = .next t ∧ t.pc.toNat = n.toNat + (s.reg 0#4).toNat ∧ onlyChanges [.pc] s t) ∧
    (s.reg 0#4 = 0#8 → exec (.jpV0 n) s = exec (.jp n) s) ∧
    (s.atInstr (.jpV0 n) → 0xFFF < n.toNat + (s.reg 0#4).toNat →
      step s = .fault (.memoryOutOfRange (n.toNat + (s.reg 0#4).toNat) (some s.wordAt) s.pc))

/-! ### Skips (42_skips) -/

/-- SE Vx, NN and SNE Vx, NN: 2 more on the pc when the comparison holds, and nothing else (R140, R141). -/
def Obligations.SkipOnImmediate : Prop :=
  ∀ (x : Reg) (nn : Byte) (s : State),
    (decode (packXNN 0x3#4 x nn) = .instr (.seImm x nn) ∧
      ∃ t, exec (.seImm x nn) s = .next t ∧ (s.reg x = nn → t.pc = s.pc + 2#16) ∧ (s.reg x ≠ nn → t.pc = s.pc) ∧
      onlyChanges [.pc] s t) ∧
    (decode (packXNN 0x4#4 x nn) = .instr (.sneImm x nn) ∧
      ∃ t, exec (.sneImm x nn) s = .next t ∧ (s.reg x ≠ nn → t.pc = s.pc + 2#16) ∧ (s.reg x = nn → t.pc = s.pc) ∧
      onlyChanges [.pc] s t)

/-- SE Vx, Vy and SNE Vx, Vy, and the words of their groups with a nonzero low nibble are `Invalid` (R142, R143). -/
def Obligations.SkipOnRegisters : Prop :=
  (∀ (x y : Reg) (s : State),
    (decode (packXYN 0x5#4 x y 0x0#4) = .instr (.seReg x y) ∧
      ∃ t, exec (.seReg x y) s = .next t ∧ (s.reg x = s.reg y → t.pc = s.pc + 2#16) ∧ (s.reg x ≠ s.reg y → t.pc = s.pc) ∧
      onlyChanges [.pc] s t) ∧
    (decode (packXYN 0x9#4 x y 0x0#4) = .instr (.sneReg x y) ∧
      ∃ t, exec (.sneReg x y) s = .next t ∧ (s.reg x ≠ s.reg y → t.pc = s.pc + 2#16) ∧ (s.reg x = s.reg y → t.pc = s.pc) ∧
      onlyChanges [.pc] s t)) ∧
  (∀ (x y : Reg) (n : Nibble), n ≠ 0#4 →
    decode (packXYN 0x5#4 x y n) = .invalid (packXYN 0x5#4 x y n) ∧
    decode (packXYN 0x9#4 x y n) = .invalid (packXYN 0x9#4 x y n))

/-- SKP and SKNP: the key is the low nibble of the register; they wait for nothing and clear no key (R144, R145). -/
def Obligations.SkipOnKey : Prop :=
  ∀ (x : Reg) (s : State) (k : Fin 16), k.val = (s.reg x).toNat % 16 →
    (decode (packXNN 0xE#4 x 0x9E#8) = .instr (.skp x) ∧
      ∃ t, exec (.skp x) s = .next t ∧ (s.keys[k] = true → t.pc = s.pc + 2#16) ∧ (s.keys[k] = false → t.pc = s.pc) ∧
      onlyChanges [.pc] s t) ∧
    (decode (packXNN 0xE#4 x 0xA1#8) = .instr (.sknp x) ∧
      ∃ t, exec (.sknp x) s = .next t ∧ (s.keys[k] = false → t.pc = s.pc + 2#16) ∧ (s.keys[k] = true → t.pc = s.pc) ∧
      onlyChanges [.pc] s t)

/-- A taken skip from 0xFFC on, and any skip at 0xFFE, runs out of memory (the spec's own inference, R147: "A skip at `pc_f = 0xFFE` faults
whether or not it is taken, because the untaken `pc` is 0x1000"). -/
def Obligations.SkipNearTopFaults : Prop :=
  ∀ (s : State) (i : Instr) (c : Bool), s.atInstr i → s.skipCondition i = some c →
    (c = true → 0xFFC ≤ s.pc.toNat → cycle s = .fault (.memoryOutOfRange (s.pc.toNat + 4) (some s.wordAt) s.pc)) ∧
    (c = false → s.pc.toNat = 0xFFE → cycle s = .fault (.memoryOutOfRange 0x1000 (some s.wordAt) s.pc))

/-! ### Register loads, arithmetic, bitwise, shift, random (43_alu) -/

/-- LD Vx, NN and LD Vx, Vy: the destination holds the value, nothing else changes, VF only when it is the destination (R160, R162). -/
def Obligations.LoadsSetOneRegister : Prop :=
  ∀ (x y : Reg) (nn : Byte) (s : State),
    (decode (packXNN 0x6#4 x nn) = .instr (.ldImm x nn) ∧
      ∃ t, exec (.ldImm x nn) s = .next t ∧ t.reg x = nn ∧ onlyChanges [.reg x] s t) ∧
    (decode (packXYN 0x8#4 x y 0x0#4) = .instr (.ldReg x y) ∧
      ∃ t, exec (.ldReg x y) s = .next t ∧ t.reg x = s.reg y ∧ onlyChanges [.reg x] s t)

/-- ADD Vx, NN wraps at 256 and records no carry (R161). -/
def Obligations.AddImmediateWraps : Prop :=
  ∀ (x : Reg) (nn : Byte) (s : State), decode (packXNN 0x7#4 x nn) = .instr (.addImm x nn) ∧ ∃ t, exec (.addImm x nn) s = .next t ∧
    (t.reg x).toNat = ((s.reg x).toNat + nn.toNat) % 256 ∧ onlyChanges [.reg x] s t

/-- OR, AND, XOR: each bit of the result, and VF untouched unless it is the destination (R163, R164, R165). -/
def Obligations.BitwiseFormsLeaveVF : Prop :=
  ∀ (x y : Reg) (s : State),
    (decode (packXYN 0x8#4 x y 0x1#4) = .instr (.orReg x y) ∧ ∃ t, exec (.orReg x y) s = .next t ∧
      (∀ k, (t.reg x).getLsbD k = ((s.reg x).getLsbD k || (s.reg y).getLsbD k)) ∧ onlyChanges [.reg x] s t) ∧
    (decode (packXYN 0x8#4 x y 0x2#4) = .instr (.andReg x y) ∧ ∃ t, exec (.andReg x y) s = .next t ∧
      (∀ k, (t.reg x).getLsbD k = ((s.reg x).getLsbD k && (s.reg y).getLsbD k)) ∧ onlyChanges [.reg x] s t) ∧
    (decode (packXYN 0x8#4 x y 0x3#4) = .instr (.xorReg x y) ∧ ∃ t, exec (.xorReg x y) s = .next t ∧
      (∀ k, (t.reg x).getLsbD k = ((s.reg x).getLsbD k ^^ (s.reg y).getLsbD k)) ∧ onlyChanges [.reg x] s t)

/-- ADD Vx, Vy: the sum modulo 256, and VF the carry of the exact sum, written last, so VF is the flag even when x is F (R166). -/
def Obligations.AddSetsCarry : Prop :=
  ∀ (x y : Reg) (s : State), decode (packXYN 0x8#4 x y 0x4#4) = .instr (.addReg x y) ∧ ∃ t, exec (.addReg x y) s = .next t ∧
    (x ≠ 0xF#4 → (t.reg x).toNat = ((s.reg x).toNat + (s.reg y).toNat) % 256) ∧
    (255 < (s.reg x).toNat + (s.reg y).toNat → t.reg 0xF#4 = 1#8) ∧
    ((s.reg x).toNat + (s.reg y).toNat ≤ 255 → t.reg 0xF#4 = 0#8) ∧
    onlyChanges [.reg x, .reg 0xF#4] s t

/-- SUB Vx, Vy and SUBN Vx, Vy: the difference modulo 256, and VF = 1 when no borrow occurred, written last (R167, R169). -/
def Obligations.SubtractionsSetNoBorrow : Prop :=
  ∀ (x y : Reg) (s : State),
    (decode (packXYN 0x8#4 x y 0x5#4) = .instr (.sub x y) ∧ ∃ t, exec (.sub x y) s = .next t ∧
      (x ≠ 0xF#4 → ((t.reg x).toNat + (s.reg y).toNat) % 256 = (s.reg x).toNat) ∧
      ((s.reg y).toNat ≤ (s.reg x).toNat → t.reg 0xF#4 = 1#8) ∧ ((s.reg x).toNat < (s.reg y).toNat → t.reg 0xF#4 = 0#8) ∧
      onlyChanges [.reg x, .reg 0xF#4] s t) ∧
    (decode (packXYN 0x8#4 x y 0x7#4) = .instr (.subn x y) ∧ ∃ t, exec (.subn x y) s = .next t ∧
      (x ≠ 0xF#4 → ((t.reg x).toNat + (s.reg x).toNat) % 256 = (s.reg y).toNat) ∧
      ((s.reg x).toNat ≤ (s.reg y).toNat → t.reg 0xF#4 = 1#8) ∧ ((s.reg y).toNat < (s.reg x).toNat → t.reg 0xF#4 = 0#8) ∧
      onlyChanges [.reg x, .reg 0xF#4] s t)

/-- SHR Vx and SHL Vx: the register shifted by one, and VF the bit shifted out, written last (R168, R170). -/
def Obligations.ShiftsSetBitShiftedOut : Prop :=
  ∀ (x : Reg) (s : State),
    ((∀ y, decode (packXYN 0x8#4 x y 0x6#4) = .instr (.shr x)) ∧
      ∃ t, exec (.shr x) s = .next t ∧ (x ≠ 0xF#4 → (t.reg x).toNat = (s.reg x).toNat / 2) ∧
      (t.reg 0xF#4).toNat = (s.reg x).toNat % 2 ∧ onlyChanges [.reg x, .reg 0xF#4] s t) ∧
    ((∀ y, decode (packXYN 0x8#4 x y 0xE#4) = .instr (.shl x)) ∧
      ∃ t, exec (.shl x) s = .next t ∧ (x ≠ 0xF#4 → (t.reg x).toNat = (s.reg x).toNat * 2 % 256) ∧
      (t.reg 0xF#4).toNat = (s.reg x).toNat / 128 ∧ onlyChanges [.reg x, .reg 0xF#4] s t)

/-- RND Vx, NN: the cycle's random byte masked, for every random byte (R172). -/
def Obligations.RandomIsMasked : Prop :=
  ∀ (x : Reg) (nn : Byte) (s : State), decode (packXNN 0xC#4 x nn) = .instr (.rnd x nn) ∧ ∃ t, exec (.rnd x nn) s = .next t ∧
    (∀ k, (t.reg x).getLsbD k = (s.rand.getLsbD k && nn.getLsbD k)) ∧ (nn = 0#8 → t.reg x = 0#8) ∧
    (nn = 0xFF#8 → t.reg x = s.rand) ∧ onlyChanges [.reg x] s t

/-- The six flag-writing forms leave 0 or 1 in VF; no other form writes VF except by naming it as an ordinary destination (10_state R21). -/
def Obligations.OnlyFlagFormsWriteVF : Prop :=
  ∀ (i : Instr) (s t : State), exec i s = .next t →
    (writesFlag i = true → t.reg 0xF#4 = 0#8 ∨ t.reg 0xF#4 = 1#8) ∧
    (writesFlag i = false → destination i ≠ some 0xF#4 → t.reg 0xF#4 = s.reg 0xF#4)

/-! ### The index register and memory (44_index_memory) -/

/-- LD I sets `I` to the address, ADD I, Vx adds with a 16-bit wrap and no flag, LD F, Vx gives the glyph of the low nibble, inside the
font table; each changes `I` alone (R190, R191, R192). -/
def Obligations.IndexFormsSetI : Prop :=
  ∀ (n : Addr12) (x : Reg) (s : State),
    (decode (packNNN 0xA#4 n) = .instr (.ldI n) ∧
      ∃ t, exec (.ldI n) s = .next t ∧ t.index.toNat = n.toNat ∧ onlyChanges [.index] s t) ∧
    (decode (packXNN 0xF#4 x 0x1E#8) = .instr (.addI x) ∧
      ∃ t, exec (.addI x) s = .next t ∧ t.index.toNat = (s.index.toNat + (s.reg x).toNat) % 65536 ∧
      onlyChanges [.index] s t) ∧
    (decode (packXNN 0xF#4 x 0x29#8) = .instr (.ldF x) ∧
      ∃ t, exec (.ldF x) s = .next t ∧ t.index.toNat = 0x050 + 5 * ((s.reg x).toNat % 16) ∧
      0x050 ≤ t.index.toNat ∧ t.index.toNat ≤ 0x09B ∧ onlyChanges [.index] s t)

/-- LD B, Vx writes the three decimal digits to I, I + 1, I + 2 and changes nothing else, or faults before any byte is written (R193).
That the digits add up to the value and the first is at most 2 is the spec's own inference, R194: "satisfy `100 * Mem[I] + 10 * Mem[I+1] + Mem[I+2] = v`". -/
def Obligations.DecimalDigitsWritten : Prop :=
  ∀ (x : Reg) (s : State),
    decode (packXNN 0xF#4 x 0x33#8) = .instr (.ldB x) ∧
    (s.index.toNat + 3 ≤ 4096 → ∃ t, exec (.ldB x) s = .next t ∧
      (t.mem.read s.index.toNat).toNat = (s.reg x).toNat / 100 ∧
      (t.mem.read (s.index.toNat + 1)).toNat = (s.reg x).toNat / 10 % 10 ∧
      (t.mem.read (s.index.toNat + 2)).toNat = (s.reg x).toNat % 10 ∧
      100 * (t.mem.read s.index.toNat).toNat + 10 * (t.mem.read (s.index.toNat + 1)).toNat +
        (t.mem.read (s.index.toNat + 2)).toNat = (s.reg x).toNat ∧
      (t.mem.read s.index.toNat).toNat ≤ 2 ∧
      onlyChanges [.byte s.index.toNat, .byte (s.index.toNat + 1), .byte (s.index.toNat + 2)] s t) ∧
    (4096 < s.index.toNat + 3 → exec (.ldB x) s =
      .fault (.memoryOutOfRange (max s.index.toNat 4096) (some (packXNN 0xF#4 x 0x33#8)) (s.pc - 2#16)))

/-- LD [I], Vx stores V0 to Vx in the x + 1 bytes from `I` on and changes nothing else, or faults before any byte is written (R196). -/
def Obligations.BlockStoreWritesRegisters : Prop :=
  ∀ (x : Reg) (s : State),
    decode (packXNN 0xF#4 x 0x55#8) = .instr (.ldMemVx x) ∧
    (s.index.toNat + (x.toNat + 1) ≤ 4096 → ∃ t, exec (.ldMemVx x) s = .next t ∧
      (∀ k : Reg, k.toNat ≤ x.toNat → t.mem.read (s.index.toNat + k.toNat) = s.reg k) ∧
      unchangedBut (fun f => ∃ k : Reg, k.toNat ≤ x.toNat ∧ f = .byte (s.index.toNat + k.toNat)) s t) ∧
    (4096 < s.index.toNat + (x.toNat + 1) → exec (.ldMemVx x) s =
      .fault (.memoryOutOfRange (max s.index.toNat 4096) (some (packXNN 0xF#4 x 0x55#8)) (s.pc - 2#16)))

/-- LD Vx, [I] loads V0 to Vx from the x + 1 bytes from `I` on and changes nothing else, or faults before any register is written (R197). -/
def Obligations.BlockLoadReadsMemory : Prop :=
  ∀ (x : Reg) (s : State),
    decode (packXNN 0xF#4 x 0x65#8) = .instr (.ldVxMem x) ∧
    (s.index.toNat + (x.toNat + 1) ≤ 4096 → ∃ t, exec (.ldVxMem x) s = .next t ∧
      (∀ k : Reg, k.toNat ≤ x.toNat → t.reg k = s.mem.read (s.index.toNat + k.toNat)) ∧
      unchangedBut (fun f => ∃ k : Reg, k.toNat ≤ x.toNat ∧ f = .reg k) s t) ∧
    (4096 < s.index.toNat + (x.toNat + 1) → exec (.ldVxMem x) s =
      .fault (.memoryOutOfRange (max s.index.toNat 4096) (some (packXNN 0xF#4 x 0x65#8)) (s.pc - 2#16)))

/-- A program that writes over its own next instruction executes the new word: the next fetch reads what the store wrote (R287, 20_memory R61). -/
def Obligations.StoreIsSeenByTheNextFetch : Prop :=
  (∀ (x : Reg) (s t : State), 1 ≤ x.toNat → s.index = s.pc → exec (.ldMemVx x) s = .next t →
    t.fetch = some (s.reg 0#4 ++ s.reg 1#4)) ∧
  (∀ (x : Reg) (s t : State), s.index = s.pc → exec (.ldB x) s = .next t →
    t.fetch = some (BitVec.ofNat 8 ((s.reg x).toNat / 100) ++ BitVec.ofNat 8 ((s.reg x).toNat / 10 % 10)))

/-! ### The framebuffer (45_display) -/

/-- CLS turns every pixel off and changes nothing else (R210). -/
def Obligations.ClearTurnsEveryPixelOff : Prop :=
  decode 0x00E0#16 = .instr .cls ∧
  ∀ s : State, ∃ t, exec .cls s = .next t ∧ (∀ p, t.fb.get p = false) ∧ unchangedBut (fun f => ∃ p, f = .pixel p) s t

/-- DRW toggles exactly the pixels its sprite covers, each coordinate wrapped on its own, and sets VF to 1 exactly when one of them was
lit; or it faults, before anything is drawn, when a row lies outside memory (R211, R212, R213). -/
def Obligations.DrawTogglesTheSprite : Prop :=
  ∀ (x y : Reg) (n : Nibble) (s : State),
    decode (packXYN 0xD#4 x y n) = .instr (.drw x y n) ∧
    (n = 0#4 ∨ s.index.toNat + n.toNat ≤ 4096 → ∃ t, exec (.drw x y n) s = .next t ∧
      (∀ p, s.spriteCovers x y n p → t.fb.get p = !s.fb.get p) ∧
      ((∃ p, s.spriteCovers x y n p ∧ s.fb.get p = true) → t.reg 0xF#4 = 1#8) ∧
      ((∀ p, s.spriteCovers x y n p → s.fb.get p = false) → t.reg 0xF#4 = 0#8) ∧
      unchangedBut (fun f => f = .reg 0xF#4 ∨ ∃ p, s.spriteCovers x y n p ∧ f = .pixel p) s t) ∧
    (n ≠ 0#4 → 4096 < s.index.toNat + n.toNat → exec (.drw x y n) s =
      .fault (.memoryOutOfRange (max s.index.toNat 4096) (some (packXYN 0xD#4 x y n)) (s.pc - 2#16)))

/-- DRW of height 0 reads no memory, draws nothing, sets VF to 0, and never faults, wherever `I` points (R215; log entry 28). -/
def Obligations.DrawOfHeightZero : Prop :=
  ∀ (x y : Reg) (s : State), ∃ t, exec (.drw x y 0#4) s = .next t ∧ t.reg 0xF#4 = 0#8 ∧
    onlyChanges [.reg 0xF#4] s t

/-- Drawing the same sprite twice at the same coordinates restores the framebuffer; when none of its pixels was lit before and it has
one, the first draw sets VF to 0 and the second to 1 (R216, the source's property). -/
def Obligations.DrawingTwiceRestores : Prop :=
  ∀ (x y : Reg) (n : Nibble) (s t u : State), x ≠ 0xF#4 → y ≠ 0xF#4 →
    exec (.drw x y n) s = .next t → exec (.drw x y n) t = .next u →
    (∀ p, u.fb.get p = s.fb.get p) ∧
    ((∃ p, s.spriteCovers x y n p) → (∀ p, s.spriteCovers x y n p → s.fb.get p = false) →
      t.reg 0xF#4 = 0#8 ∧ u.reg 0xF#4 = 1#8)

/-- R216's first sentence read literally, with no condition on the framebuffer: the second draw of a sprite with a set bit sets VF to 1.
EXPECTED TO FAIL: where every pixel of the sprite was lit, the first draw turns them off and the second collides with nothing (log entry 27). -/
def Obligations.SecondDrawAlwaysCollides : Prop :=
  ∀ (x y : Reg) (n : Nibble) (s t u : State), x ≠ 0xF#4 → y ≠ 0xF#4 → (∃ p, s.spriteCovers x y n p) →
    exec (.drw x y n) s = .next t → exec (.drw x y n) t = .next u → u.reg 0xF#4 = 1#8

/-! ### Timers and the key-wait (46_timers_keys) -/

/-- LD Vx, DT reads the delay timer before the cycle's decrement, LD DT, Vx and LD ST, Vx set one timer each, which the cycle then
decrements (R230, R232, R233). -/
def Obligations.TimerFormsMoveOneTimer : Prop :=
  (∀ (x : Reg) (s : State),
    (decode (packXNN 0xF#4 x 0x07#8) = .instr (.ldVxDt x) ∧
      ∃ t, exec (.ldVxDt x) s = .next t ∧ t.reg x = s.dt ∧ onlyChanges [.reg x] s t) ∧
    (decode (packXNN 0xF#4 x 0x15#8) = .instr (.ldDtVx x) ∧
      ∃ t, exec (.ldDtVx x) s = .next t ∧ t.dt = s.reg x ∧ onlyChanges [.dt] s t) ∧
    (decode (packXNN 0xF#4 x 0x18#8) = .instr (.ldStVx x) ∧
      ∃ t, exec (.ldStVx x) s = .next t ∧ t.st = s.reg x ∧ onlyChanges [.st] s t)) ∧
  (∀ (x : Reg) (s : State), s.pc.toNat < 0xFFE →
    (s.atInstr (.ldVxDt x) → ∃ t, cycle s = .next t ∧ t.reg x = s.dt ∧ t.dt.toNat = s.dt.toNat - 1) ∧
    (s.atInstr (.ldDtVx x) → ∃ t, cycle s = .next t ∧ t.dt.toNat = (s.reg x).toNat - 1 ∧ t.st.toNat = s.st.toNat - 1) ∧
    (s.atInstr (.ldStVx x) → ∃ t, cycle s = .next t ∧ t.st.toNat = (s.reg x).toNat - 1 ∧ t.dt.toNat = s.dt.toNat - 1))

/-- LD Vx, K takes the lowest pressed key; with none pressed it rewinds the pc, and that cycle is a normal one that leaves the pc where
it was and counts the timers down (R231). -/
def Obligations.KeyWaitTakesLowestKeyOrRewinds : Prop :=
  (∀ x : Reg, decode (packXNN 0xF#4 x 0x0A#8) = .instr (.ldVxK x)) ∧
  (∀ (x : Reg) (s : State) (k : Fin 16), s.keys[k] = true → (∀ j : Fin 16, j < k → s.keys[j] = false) →
    ∃ t, exec (.ldVxK x) s = .next t ∧ (t.reg x).toNat = k.val ∧ onlyChanges [.reg x] s t) ∧
  (∀ (x : Reg) (s : State), (∀ j : Fin 16, s.keys[j] = false) →
    ∃ t, exec (.ldVxK x) s = .next t ∧ t.pc = s.pc - 2#16 ∧ onlyChanges [.pc] s t) ∧
  (∀ (x : Reg) (s : State), (∀ j : Fin 16, s.keys[j] = false) → s.atInstr (.ldVxK x) →
    ∃ t, cycle s = .next t ∧ t.dt.toNat = s.dt.toNat - 1 ∧ t.st.toNat = s.st.toNat - 1 ∧ onlyChanges [.dt, .st] s t)

/-! ### Whole-machine rules -/

/-- Only the named forms write each piece of state: a general register only a form that names it as its destination, the block load up to
its X, or a flag form for VF (10_state R20, R21), `I` (R25), the stack and SP (R28), the framebuffer (R33), the timers (R30, R31), memory
(20_memory R54), the pc (40_cycle R105); the keypad no form (R32). -/
def Obligations.OnlyNamedFormsWrite : Prop :=
  ∀ (i : Instr) (s t : State), exec i s = .next t →
    (∀ r : Reg, destination i ≠ some r → (∀ x : Reg, i = .ldVxMem x → x.toNat < r.toNat) →
      (writesFlag i = true → r ≠ 0xF#4) → t.reg r = s.reg r) ∧
    ((∀ n, i ≠ .ldI n) → (∀ x, i ≠ .addI x) → (∀ x, i ≠ .ldF x) → t.index = s.index) ∧
    ((∀ n, i ≠ .call n) → t.stack = s.stack) ∧ ((∀ n, i ≠ .call n) → i ≠ .ret → t.sp = s.sp) ∧
    (i ≠ .cls → (∀ x y n, i ≠ .drw x y n) → t.fb = s.fb) ∧
    ((∀ x, i ≠ .ldDtVx x) → t.dt = s.dt) ∧ ((∀ x, i ≠ .ldStVx x) → t.st = s.st) ∧
    ((∀ x, i ≠ .ldB x) → (∀ x, i ≠ .ldMemVx x) → t.mem = s.mem) ∧
    (writesPc i = false → t.pc = s.pc) ∧ t.keys = s.keys

/-- No form but the four that access memory reads it or writes it: with other memory it does the same and leaves that memory as it is
(20_memory R54). -/
def Obligations.OnlyFourFormsTouchMemory : Prop :=
  ∀ (i : Instr) (s : State) (m : Memory), accessesMemory i = false →
    exec i (s.setMem m) = mapNext (·.setMem m) (exec i s)

/-- The keypad is read by SKP, SKNP and LD Vx, K alone, the random byte by RND alone, and no instruction writes either (10_state R32, R40). -/
def Obligations.InputsReadByNamedFormsOnly : Prop :=
  (∀ (i : Instr) (s : State) (k : Vector Bool 16), readsKeys i = false →
    exec i { s with keys := k } = mapNext (fun t => { t with keys := k }) (exec i s)) ∧
  (∀ (i : Instr) (s : State) (r : Byte), (∀ x nn, i ≠ .rnd x nn) →
    exec i { s with rand := r } = mapNext (fun t => { t with rand := r }) (exec i s)) ∧
  (∀ (i : Instr) (s t : State), exec i s = .next t →
    t.keys = s.keys ∧ t.rand = s.rand ∧ t.inputs = s.inputs ∧ t.draws = s.draws)
end

