-- ==== Sys2Proof/Laws/Decode.lean ====
section
/-!
SUPPORT. The fields of a packed word (30_encoding R70): a packed field reads back as it was packed, and the bytes of a word join to it.
-/

namespace Sys2Proof

/-! ### The packed words as numbers -/

theorem packNNN_toNat (g : Nibble) (n : Addr12) : (packNNN g n).toNat = g.toNat * 4096 + n.toNat := by
  have := n.isLt
  simp only [packNNN, BitVec.toNat_append, Nat.shiftLeft_eq]
  rw [Nat.mul_comm, ← Nat.two_pow_add_eq_or_of_lt n.isLt]

theorem packXNN_toNat (g : Nibble) (x : Reg) (nn : Byte) :
    (packXNN g x nn).toNat = g.toNat * 4096 + (x.toNat * 256 + nn.toNat) := by
  have h := packNNN_toNat g (x ++ nn : BitVec 12)
  rw [show packXNN g x nn = packNNN g (x ++ nn : BitVec 12) from rfl, h]
  simp only [BitVec.toNat_append, Nat.shiftLeft_eq]
  rw [Nat.mul_comm x.toNat, ← Nat.two_pow_add_eq_or_of_lt nn.isLt]

theorem packXYN_toNat (g : Nibble) (x y : Reg) (n : Nibble) :
    (packXYN g x y n).toNat = g.toNat * 4096 + (x.toNat * 256 + (y.toNat * 16 + n.toNat)) := by
  have h := packXNN_toNat g x (y ++ n : BitVec 8)
  rw [show packXYN g x y n = packXNN g x (y ++ n : BitVec 8) from rfl, h]
  simp only [BitVec.toNat_append, Nat.shiftLeft_eq]
  rw [Nat.mul_comm y.toNat, ← Nat.two_pow_add_eq_or_of_lt n.isLt]

/-! ### The fields of a packed word -/

@[simp] theorem fieldG_packNNN (g : Nibble) (n : Addr12) : fieldG (packNNN g n) = g := by
  apply BitVec.eq_of_toNat_eq
  have := g.isLt
  have := n.isLt
  simp only [fieldG, BitVec.extractLsb'_toNat, Nat.shiftRight_eq_div_pow, packNNN_toNat]
  omega

@[simp] theorem fieldNNN_packNNN (g : Nibble) (n : Addr12) : fieldNNN (packNNN g n) = n := by
  apply BitVec.eq_of_toNat_eq
  have := g.isLt
  have := n.isLt
  simp only [fieldNNN, BitVec.extractLsb'_toNat, Nat.shiftRight_eq_div_pow, packNNN_toNat]
  omega

@[simp] theorem fieldG_packXNN (g : Nibble) (x : Reg) (nn : Byte) : fieldG (packXNN g x nn) = g := by
  apply BitVec.eq_of_toNat_eq
  have := g.isLt
  have := x.isLt
  have := nn.isLt
  simp only [fieldG, BitVec.extractLsb'_toNat, Nat.shiftRight_eq_div_pow, packXNN_toNat]
  omega

@[simp] theorem fieldX_packXNN (g : Nibble) (x : Reg) (nn : Byte) : fieldX (packXNN g x nn) = x := by
  apply BitVec.eq_of_toNat_eq
  have := g.isLt
  have := x.isLt
  have := nn.isLt
  simp only [fieldX, BitVec.extractLsb'_toNat, Nat.shiftRight_eq_div_pow, packXNN_toNat]
  omega

@[simp] theorem fieldNN_packXNN (g : Nibble) (x : Reg) (nn : Byte) : fieldNN (packXNN g x nn) = nn := by
  apply BitVec.eq_of_toNat_eq
  have := g.isLt
  have := x.isLt
  have := nn.isLt
  simp only [fieldNN, BitVec.extractLsb'_toNat, Nat.shiftRight_eq_div_pow, packXNN_toNat]
  omega

@[simp] theorem fieldG_packXYN (g : Nibble) (x y : Reg) (n : Nibble) : fieldG (packXYN g x y n) = g := by
  apply BitVec.eq_of_toNat_eq
  have := g.isLt
  have := x.isLt
  have := y.isLt
  have := n.isLt
  simp only [fieldG, BitVec.extractLsb'_toNat, Nat.shiftRight_eq_div_pow, packXYN_toNat]
  omega

@[simp] theorem fieldX_packXYN (g : Nibble) (x y : Reg) (n : Nibble) : fieldX (packXYN g x y n) = x := by
  apply BitVec.eq_of_toNat_eq
  have := g.isLt
  have := x.isLt
  have := y.isLt
  have := n.isLt
  simp only [fieldX, BitVec.extractLsb'_toNat, Nat.shiftRight_eq_div_pow, packXYN_toNat]
  omega

@[simp] theorem fieldY_packXYN (g : Nibble) (x y : Reg) (n : Nibble) : fieldY (packXYN g x y n) = y := by
  apply BitVec.eq_of_toNat_eq
  have := g.isLt
  have := x.isLt
  have := y.isLt
  have := n.isLt
  simp only [fieldY, BitVec.extractLsb'_toNat, Nat.shiftRight_eq_div_pow, packXYN_toNat]
  omega

@[simp] theorem fieldN_packXYN (g : Nibble) (x y : Reg) (n : Nibble) : fieldN (packXYN g x y n) = n := by
  apply BitVec.eq_of_toNat_eq
  have := g.isLt
  have := x.isLt
  have := y.isLt
  have := n.isLt
  simp only [fieldN, BitVec.extractLsb'_toNat, Nat.shiftRight_eq_div_pow, packXYN_toNat]
  omega

/-! ### The bytes of a word (20_memory R53) -/

@[simp] theorem wordOfBytes_bytes (w : Word) : wordOfBytes (highByte w) (lowByte w) = w := by
  apply BitVec.eq_of_toNat_eq
  have := w.isLt
  simp only [wordOfBytes, BitVec.toNat_append, Nat.shiftLeft_eq]
  rw [Nat.mul_comm, ← Nat.two_pow_add_eq_or_of_lt (lowByte w).isLt]
  simp only [highByte, lowByte, BitVec.extractLsb'_toNat, Nat.shiftRight_eq_div_pow]
  omega

/-- Decoding a word's bytes as memory holds them is decoding the word. -/
@[simp] theorem decodeBytes_bytes (w : Word) : decodeBytes (highByte w) (lowByte w) = decode w := by
  simp [decodeBytes]

end Sys2Proof
end

