-- ==== Sys2Proof/Laws/State.lean ====
section
/-!
SUPPORT. The small laws of the state: what each update leaves in each field, so that no later proof unfolds a record update.
-/

namespace Sys2Proof.Machine

/-! ### setReg -/

@[simp] theorem State.setReg_v (s : State) (x : Reg) (b : Byte) : (s.setReg x b).v = s.v.set x.toNat b x.isLt := rfl
@[simp] theorem State.setReg_index (s : State) (x : Reg) (b : Byte) : (s.setReg x b).index = s.index := rfl
@[simp] theorem State.setReg_pc (s : State) (x : Reg) (b : Byte) : (s.setReg x b).pc = s.pc := rfl
@[simp] theorem State.setReg_stack (s : State) (x : Reg) (b : Byte) : (s.setReg x b).stack = s.stack := rfl
@[simp] theorem State.setReg_sp (s : State) (x : Reg) (b : Byte) : (s.setReg x b).sp = s.sp := rfl
@[simp] theorem State.setReg_dt (s : State) (x : Reg) (b : Byte) : (s.setReg x b).dt = s.dt := rfl
@[simp] theorem State.setReg_st (s : State) (x : Reg) (b : Byte) : (s.setReg x b).st = s.st := rfl
@[simp] theorem State.setReg_keys (s : State) (x : Reg) (b : Byte) : (s.setReg x b).keys = s.keys := rfl
@[simp] theorem State.setReg_fb (s : State) (x : Reg) (b : Byte) : (s.setReg x b).fb = s.fb := rfl
@[simp] theorem State.setReg_mem (s : State) (x : Reg) (b : Byte) : (s.setReg x b).mem = s.mem := rfl
@[simp] theorem State.setReg_rand (s : State) (x : Reg) (b : Byte) : (s.setReg x b).rand = s.rand := rfl
@[simp] theorem State.setReg_inputs (s : State) (x : Reg) (b : Byte) : (s.setReg x b).inputs = s.inputs := rfl
@[simp] theorem State.setReg_draws (s : State) (x : Reg) (b : Byte) : (s.setReg x b).draws = s.draws := rfl

/-! ### setRegFlag -/

@[simp] theorem State.setRegFlag_index (s : State) (x : Reg) (b c : Byte) : (s.setRegFlag x b c).index = s.index := rfl
@[simp] theorem State.setRegFlag_pc (s : State) (x : Reg) (b c : Byte) : (s.setRegFlag x b c).pc = s.pc := rfl
@[simp] theorem State.setRegFlag_stack (s : State) (x : Reg) (b c : Byte) : (s.setRegFlag x b c).stack = s.stack := rfl
@[simp] theorem State.setRegFlag_sp (s : State) (x : Reg) (b c : Byte) : (s.setRegFlag x b c).sp = s.sp := rfl
@[simp] theorem State.setRegFlag_dt (s : State) (x : Reg) (b c : Byte) : (s.setRegFlag x b c).dt = s.dt := rfl
@[simp] theorem State.setRegFlag_st (s : State) (x : Reg) (b c : Byte) : (s.setRegFlag x b c).st = s.st := rfl
@[simp] theorem State.setRegFlag_keys (s : State) (x : Reg) (b c : Byte) : (s.setRegFlag x b c).keys = s.keys := rfl
@[simp] theorem State.setRegFlag_fb (s : State) (x : Reg) (b c : Byte) : (s.setRegFlag x b c).fb = s.fb := rfl
@[simp] theorem State.setRegFlag_mem (s : State) (x : Reg) (b c : Byte) : (s.setRegFlag x b c).mem = s.mem := rfl
@[simp] theorem State.setRegFlag_rand (s : State) (x : Reg) (b c : Byte) : (s.setRegFlag x b c).rand = s.rand := rfl
@[simp] theorem State.setRegFlag_inputs (s : State) (x : Reg) (b c : Byte) : (s.setRegFlag x b c).inputs = s.inputs := rfl
@[simp] theorem State.setRegFlag_draws (s : State) (x : Reg) (b c : Byte) : (s.setRegFlag x b c).draws = s.draws := rfl

/-! ### setIndex -/

@[simp] theorem State.setIndex_v (s : State) (w : Word) : (s.setIndex w).v = s.v := rfl
@[simp] theorem State.setIndex_index (s : State) (w : Word) : (s.setIndex w).index = w := rfl
@[simp] theorem State.setIndex_pc (s : State) (w : Word) : (s.setIndex w).pc = s.pc := rfl
@[simp] theorem State.setIndex_stack (s : State) (w : Word) : (s.setIndex w).stack = s.stack := rfl
@[simp] theorem State.setIndex_sp (s : State) (w : Word) : (s.setIndex w).sp = s.sp := rfl
@[simp] theorem State.setIndex_dt (s : State) (w : Word) : (s.setIndex w).dt = s.dt := rfl
@[simp] theorem State.setIndex_st (s : State) (w : Word) : (s.setIndex w).st = s.st := rfl
@[simp] theorem State.setIndex_keys (s : State) (w : Word) : (s.setIndex w).keys = s.keys := rfl
@[simp] theorem State.setIndex_fb (s : State) (w : Word) : (s.setIndex w).fb = s.fb := rfl
@[simp] theorem State.setIndex_mem (s : State) (w : Word) : (s.setIndex w).mem = s.mem := rfl
@[simp] theorem State.setIndex_rand (s : State) (w : Word) : (s.setIndex w).rand = s.rand := rfl
@[simp] theorem State.setIndex_inputs (s : State) (w : Word) : (s.setIndex w).inputs = s.inputs := rfl
@[simp] theorem State.setIndex_draws (s : State) (w : Word) : (s.setIndex w).draws = s.draws := rfl
@[simp] theorem State.setIndex_reg (s : State) (w : Word) (r : Reg) : (s.setIndex w).reg r = s.reg r := rfl

/-! ### setPc -/

@[simp] theorem State.setPc_v (s : State) (w : Word) : (s.setPc w).v = s.v := rfl
@[simp] theorem State.setPc_index (s : State) (w : Word) : (s.setPc w).index = s.index := rfl
@[simp] theorem State.setPc_pc (s : State) (w : Word) : (s.setPc w).pc = w := rfl
@[simp] theorem State.setPc_stack (s : State) (w : Word) : (s.setPc w).stack = s.stack := rfl
@[simp] theorem State.setPc_sp (s : State) (w : Word) : (s.setPc w).sp = s.sp := rfl
@[simp] theorem State.setPc_dt (s : State) (w : Word) : (s.setPc w).dt = s.dt := rfl
@[simp] theorem State.setPc_st (s : State) (w : Word) : (s.setPc w).st = s.st := rfl
@[simp] theorem State.setPc_keys (s : State) (w : Word) : (s.setPc w).keys = s.keys := rfl
@[simp] theorem State.setPc_fb (s : State) (w : Word) : (s.setPc w).fb = s.fb := rfl
@[simp] theorem State.setPc_mem (s : State) (w : Word) : (s.setPc w).mem = s.mem := rfl
@[simp] theorem State.setPc_rand (s : State) (w : Word) : (s.setPc w).rand = s.rand := rfl
@[simp] theorem State.setPc_inputs (s : State) (w : Word) : (s.setPc w).inputs = s.inputs := rfl
@[simp] theorem State.setPc_draws (s : State) (w : Word) : (s.setPc w).draws = s.draws := rfl
@[simp] theorem State.setPc_reg (s : State) (w : Word) (r : Reg) : (s.setPc w).reg r = s.reg r := rfl

/-! ### setDt -/

@[simp] theorem State.setDt_v (s : State) (b : Byte) : (s.setDt b).v = s.v := rfl
@[simp] theorem State.setDt_index (s : State) (b : Byte) : (s.setDt b).index = s.index := rfl
@[simp] theorem State.setDt_pc (s : State) (b : Byte) : (s.setDt b).pc = s.pc := rfl
@[simp] theorem State.setDt_stack (s : State) (b : Byte) : (s.setDt b).stack = s.stack := rfl
@[simp] theorem State.setDt_sp (s : State) (b : Byte) : (s.setDt b).sp = s.sp := rfl
@[simp] theorem State.setDt_dt (s : State) (b : Byte) : (s.setDt b).dt = b := rfl
@[simp] theorem State.setDt_st (s : State) (b : Byte) : (s.setDt b).st = s.st := rfl
@[simp] theorem State.setDt_keys (s : State) (b : Byte) : (s.setDt b).keys = s.keys := rfl
@[simp] theorem State.setDt_fb (s : State) (b : Byte) : (s.setDt b).fb = s.fb := rfl
@[simp] theorem State.setDt_mem (s : State) (b : Byte) : (s.setDt b).mem = s.mem := rfl
@[simp] theorem State.setDt_rand (s : State) (b : Byte) : (s.setDt b).rand = s.rand := rfl
@[simp] theorem State.setDt_inputs (s : State) (b : Byte) : (s.setDt b).inputs = s.inputs := rfl
@[simp] theorem State.setDt_draws (s : State) (b : Byte) : (s.setDt b).draws = s.draws := rfl
@[simp] theorem State.setDt_reg (s : State) (b : Byte) (r : Reg) : (s.setDt b).reg r = s.reg r := rfl

/-! ### setSt -/

@[simp] theorem State.setSt_v (s : State) (b : Byte) : (s.setSt b).v = s.v := rfl
@[simp] theorem State.setSt_index (s : State) (b : Byte) : (s.setSt b).index = s.index := rfl
@[simp] theorem State.setSt_pc (s : State) (b : Byte) : (s.setSt b).pc = s.pc := rfl
@[simp] theorem State.setSt_stack (s : State) (b : Byte) : (s.setSt b).stack = s.stack := rfl
@[simp] theorem State.setSt_sp (s : State) (b : Byte) : (s.setSt b).sp = s.sp := rfl
@[simp] theorem State.setSt_dt (s : State) (b : Byte) : (s.setSt b).dt = s.dt := rfl
@[simp] theorem State.setSt_st (s : State) (b : Byte) : (s.setSt b).st = b := rfl
@[simp] theorem State.setSt_keys (s : State) (b : Byte) : (s.setSt b).keys = s.keys := rfl
@[simp] theorem State.setSt_fb (s : State) (b : Byte) : (s.setSt b).fb = s.fb := rfl
@[simp] theorem State.setSt_mem (s : State) (b : Byte) : (s.setSt b).mem = s.mem := rfl
@[simp] theorem State.setSt_rand (s : State) (b : Byte) : (s.setSt b).rand = s.rand := rfl
@[simp] theorem State.setSt_inputs (s : State) (b : Byte) : (s.setSt b).inputs = s.inputs := rfl
@[simp] theorem State.setSt_draws (s : State) (b : Byte) : (s.setSt b).draws = s.draws := rfl
@[simp] theorem State.setSt_reg (s : State) (b : Byte) (r : Reg) : (s.setSt b).reg r = s.reg r := rfl

/-! ### setMem -/

@[simp] theorem State.setMem_v (s : State) (m : Memory) : (s.setMem m).v = s.v := rfl
@[simp] theorem State.setMem_index (s : State) (m : Memory) : (s.setMem m).index = s.index := rfl
@[simp] theorem State.setMem_pc (s : State) (m : Memory) : (s.setMem m).pc = s.pc := rfl
@[simp] theorem State.setMem_stack (s : State) (m : Memory) : (s.setMem m).stack = s.stack := rfl
@[simp] theorem State.setMem_sp (s : State) (m : Memory) : (s.setMem m).sp = s.sp := rfl
@[simp] theorem State.setMem_dt (s : State) (m : Memory) : (s.setMem m).dt = s.dt := rfl
@[simp] theorem State.setMem_st (s : State) (m : Memory) : (s.setMem m).st = s.st := rfl
@[simp] theorem State.setMem_keys (s : State) (m : Memory) : (s.setMem m).keys = s.keys := rfl
@[simp] theorem State.setMem_fb (s : State) (m : Memory) : (s.setMem m).fb = s.fb := rfl
@[simp] theorem State.setMem_mem (s : State) (m : Memory) : (s.setMem m).mem = m := rfl
@[simp] theorem State.setMem_rand (s : State) (m : Memory) : (s.setMem m).rand = s.rand := rfl
@[simp] theorem State.setMem_inputs (s : State) (m : Memory) : (s.setMem m).inputs = s.inputs := rfl
@[simp] theorem State.setMem_draws (s : State) (m : Memory) : (s.setMem m).draws = s.draws := rfl
@[simp] theorem State.setMem_reg (s : State) (m : Memory) (r : Reg) : (s.setMem m).reg r = s.reg r := rfl

/-! ### setScreen -/

@[simp] theorem State.setScreen_v (s : State) (f : Screen) : (s.setScreen f).v = s.v := rfl
@[simp] theorem State.setScreen_index (s : State) (f : Screen) : (s.setScreen f).index = s.index := rfl
@[simp] theorem State.setScreen_pc (s : State) (f : Screen) : (s.setScreen f).pc = s.pc := rfl
@[simp] theorem State.setScreen_stack (s : State) (f : Screen) : (s.setScreen f).stack = s.stack := rfl
@[simp] theorem State.setScreen_sp (s : State) (f : Screen) : (s.setScreen f).sp = s.sp := rfl
@[simp] theorem State.setScreen_dt (s : State) (f : Screen) : (s.setScreen f).dt = s.dt := rfl
@[simp] theorem State.setScreen_st (s : State) (f : Screen) : (s.setScreen f).st = s.st := rfl
@[simp] theorem State.setScreen_keys (s : State) (f : Screen) : (s.setScreen f).keys = s.keys := rfl
@[simp] theorem State.setScreen_fb (s : State) (f : Screen) : (s.setScreen f).fb = f := rfl
@[simp] theorem State.setScreen_mem (s : State) (f : Screen) : (s.setScreen f).mem = s.mem := rfl
@[simp] theorem State.setScreen_rand (s : State) (f : Screen) : (s.setScreen f).rand = s.rand := rfl
@[simp] theorem State.setScreen_inputs (s : State) (f : Screen) : (s.setScreen f).inputs = s.inputs := rfl
@[simp] theorem State.setScreen_draws (s : State) (f : Screen) : (s.setScreen f).draws = s.draws := rfl
@[simp] theorem State.setScreen_reg (s : State) (f : Screen) (r : Reg) : (s.setScreen f).reg r = s.reg r := rfl

/-! ### loadBlock -/

@[simp] theorem State.loadBlock_index (s : State) (x : Reg) : (s.loadBlock x).index = s.index := rfl
@[simp] theorem State.loadBlock_pc (s : State) (x : Reg) : (s.loadBlock x).pc = s.pc := rfl
@[simp] theorem State.loadBlock_stack (s : State) (x : Reg) : (s.loadBlock x).stack = s.stack := rfl
@[simp] theorem State.loadBlock_sp (s : State) (x : Reg) : (s.loadBlock x).sp = s.sp := rfl
@[simp] theorem State.loadBlock_dt (s : State) (x : Reg) : (s.loadBlock x).dt = s.dt := rfl
@[simp] theorem State.loadBlock_st (s : State) (x : Reg) : (s.loadBlock x).st = s.st := rfl
@[simp] theorem State.loadBlock_keys (s : State) (x : Reg) : (s.loadBlock x).keys = s.keys := rfl
@[simp] theorem State.loadBlock_fb (s : State) (x : Reg) : (s.loadBlock x).fb = s.fb := rfl
@[simp] theorem State.loadBlock_mem (s : State) (x : Reg) : (s.loadBlock x).mem = s.mem := rfl
@[simp] theorem State.loadBlock_rand (s : State) (x : Reg) : (s.loadBlock x).rand = s.rand := rfl
@[simp] theorem State.loadBlock_inputs (s : State) (x : Reg) : (s.loadBlock x).inputs = s.inputs := rfl
@[simp] theorem State.loadBlock_draws (s : State) (x : Reg) : (s.loadBlock x).draws = s.draws := rfl

/-! ### advance -/

@[simp] theorem State.advance_v (s : State) : (s.advance).v = s.v := rfl
@[simp] theorem State.advance_index (s : State) : (s.advance).index = s.index := rfl
@[simp] theorem State.advance_pc (s : State) : (s.advance).pc = s.pc + instrBytes := rfl
@[simp] theorem State.advance_stack (s : State) : (s.advance).stack = s.stack := rfl
@[simp] theorem State.advance_sp (s : State) : (s.advance).sp = s.sp := rfl
@[simp] theorem State.advance_dt (s : State) : (s.advance).dt = s.dt := rfl
@[simp] theorem State.advance_st (s : State) : (s.advance).st = s.st := rfl
@[simp] theorem State.advance_keys (s : State) : (s.advance).keys = s.keys := rfl
@[simp] theorem State.advance_fb (s : State) : (s.advance).fb = s.fb := rfl
@[simp] theorem State.advance_mem (s : State) : (s.advance).mem = s.mem := rfl
@[simp] theorem State.advance_rand (s : State) : (s.advance).rand = s.rand := rfl
@[simp] theorem State.advance_inputs (s : State) : (s.advance).inputs = s.inputs := rfl
@[simp] theorem State.advance_draws (s : State) : (s.advance).draws = s.draws := rfl
@[simp] theorem State.advance_reg (s : State) (r : Reg) : (s.advance).reg r = s.reg r := rfl

/-! ### push -/

@[simp] theorem State.push_v (s : State) (w : Word) : (s.push w).v = s.v := rfl
@[simp] theorem State.push_index (s : State) (w : Word) : (s.push w).index = s.index := rfl
@[simp] theorem State.push_pc (s : State) (w : Word) : (s.push w).pc = s.pc := rfl
@[simp] theorem State.push_stack (s : State) (w : Word) : (s.push w).stack = s.stack.setIfInBounds s.sp.val w := rfl
@[simp] theorem State.push_sp (s : State) (w : Word) : (s.push w).sp = Fin.ofNat 17 (s.sp.val + 1) := rfl
@[simp] theorem State.push_dt (s : State) (w : Word) : (s.push w).dt = s.dt := rfl
@[simp] theorem State.push_st (s : State) (w : Word) : (s.push w).st = s.st := rfl
@[simp] theorem State.push_keys (s : State) (w : Word) : (s.push w).keys = s.keys := rfl
@[simp] theorem State.push_fb (s : State) (w : Word) : (s.push w).fb = s.fb := rfl
@[simp] theorem State.push_mem (s : State) (w : Word) : (s.push w).mem = s.mem := rfl
@[simp] theorem State.push_rand (s : State) (w : Word) : (s.push w).rand = s.rand := rfl
@[simp] theorem State.push_inputs (s : State) (w : Word) : (s.push w).inputs = s.inputs := rfl
@[simp] theorem State.push_draws (s : State) (w : Word) : (s.push w).draws = s.draws := rfl
@[simp] theorem State.push_reg (s : State) (w : Word) (r : Reg) : (s.push w).reg r = s.reg r := rfl

/-! ### pop -/

@[simp] theorem State.pop_v (s : State) : (s.pop).v = s.v := rfl
@[simp] theorem State.pop_index (s : State) : (s.pop).index = s.index := rfl
@[simp] theorem State.pop_pc (s : State) : (s.pop).pc = s.pc := rfl
@[simp] theorem State.pop_stack (s : State) : (s.pop).stack = s.stack := rfl
@[simp] theorem State.pop_sp (s : State) : (s.pop).sp = Fin.ofNat 17 (s.sp.val - 1) := rfl
@[simp] theorem State.pop_dt (s : State) : (s.pop).dt = s.dt := rfl
@[simp] theorem State.pop_st (s : State) : (s.pop).st = s.st := rfl
@[simp] theorem State.pop_keys (s : State) : (s.pop).keys = s.keys := rfl
@[simp] theorem State.pop_fb (s : State) : (s.pop).fb = s.fb := rfl
@[simp] theorem State.pop_mem (s : State) : (s.pop).mem = s.mem := rfl
@[simp] theorem State.pop_rand (s : State) : (s.pop).rand = s.rand := rfl
@[simp] theorem State.pop_inputs (s : State) : (s.pop).inputs = s.inputs := rfl
@[simp] theorem State.pop_draws (s : State) : (s.pop).draws = s.draws := rfl
@[simp] theorem State.pop_reg (s : State) (r : Reg) : (s.pop).reg r = s.reg r := rfl

/-! ### drawSprite -/

@[simp] theorem State.drawSprite_index (s : State) (ps : List Pixel) : (s.drawSprite ps).index = s.index := rfl
@[simp] theorem State.drawSprite_pc (s : State) (ps : List Pixel) : (s.drawSprite ps).pc = s.pc := rfl
@[simp] theorem State.drawSprite_stack (s : State) (ps : List Pixel) : (s.drawSprite ps).stack = s.stack := rfl
@[simp] theorem State.drawSprite_sp (s : State) (ps : List Pixel) : (s.drawSprite ps).sp = s.sp := rfl
@[simp] theorem State.drawSprite_dt (s : State) (ps : List Pixel) : (s.drawSprite ps).dt = s.dt := rfl
@[simp] theorem State.drawSprite_st (s : State) (ps : List Pixel) : (s.drawSprite ps).st = s.st := rfl
@[simp] theorem State.drawSprite_keys (s : State) (ps : List Pixel) : (s.drawSprite ps).keys = s.keys := rfl
@[simp] theorem State.drawSprite_fb (s : State) (ps : List Pixel) : (s.drawSprite ps).fb = (s.fb.draw ps).1 := rfl
@[simp] theorem State.drawSprite_mem (s : State) (ps : List Pixel) : (s.drawSprite ps).mem = s.mem := rfl
@[simp] theorem State.drawSprite_rand (s : State) (ps : List Pixel) : (s.drawSprite ps).rand = s.rand := rfl
@[simp] theorem State.drawSprite_inputs (s : State) (ps : List Pixel) : (s.drawSprite ps).inputs = s.inputs := rfl
@[simp] theorem State.drawSprite_draws (s : State) (ps : List Pixel) : (s.drawSprite ps).draws = s.draws := rfl

/-! ### countTimers -/

@[simp] theorem State.countTimers_v (s : State) : (s.countTimers).v = s.v := rfl
@[simp] theorem State.countTimers_index (s : State) : (s.countTimers).index = s.index := rfl
@[simp] theorem State.countTimers_pc (s : State) : (s.countTimers).pc = s.pc := rfl
@[simp] theorem State.countTimers_stack (s : State) : (s.countTimers).stack = s.stack := rfl
@[simp] theorem State.countTimers_sp (s : State) : (s.countTimers).sp = s.sp := rfl
@[simp] theorem State.countTimers_dt (s : State) : (s.countTimers).dt = countDown s.dt := rfl
@[simp] theorem State.countTimers_st (s : State) : (s.countTimers).st = countDown s.st := rfl
@[simp] theorem State.countTimers_keys (s : State) : (s.countTimers).keys = s.keys := rfl
@[simp] theorem State.countTimers_fb (s : State) : (s.countTimers).fb = s.fb := rfl
@[simp] theorem State.countTimers_mem (s : State) : (s.countTimers).mem = s.mem := rfl
@[simp] theorem State.countTimers_rand (s : State) : (s.countTimers).rand = s.rand := rfl
@[simp] theorem State.countTimers_inputs (s : State) : (s.countTimers).inputs = s.inputs := rfl
@[simp] theorem State.countTimers_draws (s : State) : (s.countTimers).draws = s.draws := rfl
@[simp] theorem State.countTimers_reg (s : State) (r : Reg) : (s.countTimers).reg r = s.reg r := rfl

/-! ### withInput -/

@[simp] theorem State.withInput_v (s : State) (k : Input) : (s.withInput k).v = s.v := rfl
@[simp] theorem State.withInput_index (s : State) (k : Input) : (s.withInput k).index = s.index := rfl
@[simp] theorem State.withInput_pc (s : State) (k : Input) : (s.withInput k).pc = s.pc := rfl
@[simp] theorem State.withInput_stack (s : State) (k : Input) : (s.withInput k).stack = s.stack := rfl
@[simp] theorem State.withInput_sp (s : State) (k : Input) : (s.withInput k).sp = s.sp := rfl
@[simp] theorem State.withInput_dt (s : State) (k : Input) : (s.withInput k).dt = s.dt := rfl
@[simp] theorem State.withInput_st (s : State) (k : Input) : (s.withInput k).st = s.st := rfl
@[simp] theorem State.withInput_keys (s : State) (k : Input) : (s.withInput k).keys = k.keys := rfl
@[simp] theorem State.withInput_fb (s : State) (k : Input) : (s.withInput k).fb = s.fb := rfl
@[simp] theorem State.withInput_mem (s : State) (k : Input) : (s.withInput k).mem = s.mem := rfl
@[simp] theorem State.withInput_rand (s : State) (k : Input) : (s.withInput k).rand = k.rand := rfl
@[simp] theorem State.withInput_inputs (s : State) (k : Input) : (s.withInput k).inputs = s.inputs := rfl
@[simp] theorem State.withInput_draws (s : State) (k : Input) : (s.withInput k).draws = s.draws := rfl
@[simp] theorem State.withInput_reg (s : State) (k : Input) (r : Reg) : (s.withInput k).reg r = s.reg r := rfl

/-! ### arrive -/

@[simp] theorem State.arrive_v (s : State) : (s.arrive).v = s.v := rfl
@[simp] theorem State.arrive_index (s : State) : (s.arrive).index = s.index := rfl
@[simp] theorem State.arrive_pc (s : State) : (s.arrive).pc = s.pc := rfl
@[simp] theorem State.arrive_stack (s : State) : (s.arrive).stack = s.stack := rfl
@[simp] theorem State.arrive_sp (s : State) : (s.arrive).sp = s.sp := rfl
@[simp] theorem State.arrive_dt (s : State) : (s.arrive).dt = s.dt := rfl
@[simp] theorem State.arrive_st (s : State) : (s.arrive).st = s.st := rfl
@[simp] theorem State.arrive_keys (s : State) : (s.arrive).keys = s.nextInput.keys := rfl
@[simp] theorem State.arrive_fb (s : State) : (s.arrive).fb = s.fb := rfl
@[simp] theorem State.arrive_mem (s : State) : (s.arrive).mem = s.mem := rfl
@[simp] theorem State.arrive_rand (s : State) : (s.arrive).rand = s.nextInput.rand := rfl
@[simp] theorem State.arrive_inputs (s : State) : (s.arrive).inputs = s.inputs.tail := rfl
@[simp] theorem State.arrive_draws (s : State) : (s.arrive).draws = s.draws + 1 := rfl
@[simp] theorem State.arrive_reg (s : State) (r : Reg) : (s.arrive).reg r = s.reg r := rfl

/-! ### skipIf -/

@[simp] theorem State.skipIf_v (s : State) (c : Bool) : (s.skipIf c).v = s.v := by cases c <;> rfl
@[simp] theorem State.skipIf_index (s : State) (c : Bool) : (s.skipIf c).index = s.index := by cases c <;> rfl
@[simp] theorem State.skipIf_pc (s : State) (c : Bool) : (s.skipIf c).pc = if c then s.pc + instrBytes else s.pc := by
  cases c <;> rfl
@[simp] theorem State.skipIf_stack (s : State) (c : Bool) : (s.skipIf c).stack = s.stack := by cases c <;> rfl
@[simp] theorem State.skipIf_sp (s : State) (c : Bool) : (s.skipIf c).sp = s.sp := by cases c <;> rfl
@[simp] theorem State.skipIf_dt (s : State) (c : Bool) : (s.skipIf c).dt = s.dt := by cases c <;> rfl
@[simp] theorem State.skipIf_st (s : State) (c : Bool) : (s.skipIf c).st = s.st := by cases c <;> rfl
@[simp] theorem State.skipIf_keys (s : State) (c : Bool) : (s.skipIf c).keys = s.keys := by cases c <;> rfl
@[simp] theorem State.skipIf_fb (s : State) (c : Bool) : (s.skipIf c).fb = s.fb := by cases c <;> rfl
@[simp] theorem State.skipIf_mem (s : State) (c : Bool) : (s.skipIf c).mem = s.mem := by cases c <;> rfl
@[simp] theorem State.skipIf_rand (s : State) (c : Bool) : (s.skipIf c).rand = s.rand := by cases c <;> rfl
@[simp] theorem State.skipIf_inputs (s : State) (c : Bool) : (s.skipIf c).inputs = s.inputs := by cases c <;> rfl
@[simp] theorem State.skipIf_draws (s : State) (c : Bool) : (s.skipIf c).draws = s.draws := by cases c <;> rfl
@[simp] theorem State.skipIf_reg (s : State) (c : Bool) (r : Reg) : (s.skipIf c).reg r = s.reg r := by cases c <;> rfl

end Sys2Proof.Machine
end

