-- ==== Sys2Proof/Laws/Memory.lean ====
section
/-!
SUPPORT. The laws of memory: a read after a write, and that every memory operation keeps the canonical form.
-/

namespace Sys2Proof.Machine

theorem Memory.read_erase (m : Memory) (a k : Nat) :
    Memory.read (m.erase a) k = if k = a then Memory.blank a else m.read k := by
  induction m with
  | nil => by_cases h : k = a <;> simp [Memory.erase, Memory.read, h]
  | cons c m ih =>
    simp only [Memory.erase] at ih ⊢
    by_cases hc : c.1 = a
    · rw [List.filter_cons_of_neg (by simp [hc]), ih]
      by_cases hk : k = a
      · simp [hk]
      · have hck : ¬c.1 = k := fun e => hk (e ▸ hc)
        simp [Memory.read, hk, hck]
    · rw [List.filter_cons_of_pos (by simp [hc])]
      by_cases hck : c.1 = k
      · have hk : ¬k = a := fun e => hc (hck.trans e)
        simp [Memory.read, hck, hk]
      · simp only [Memory.read, hck, if_false, ih]

theorem Memory.read_insert {m : Memory} {a : Nat} (h : ∀ c ∈ m, c.1 ≠ a) (b : Byte) (k : Nat) :
    (m.insert a b).read k = if k = a then b else m.read k := by
  induction m with
  | nil =>
    by_cases hk : k = a
    · simp [Memory.insert, Memory.read, hk]
    · have : ¬a = k := fun e => hk e.symm
      simp [Memory.insert, Memory.read, hk, this]
  | cons c m ih =>
    have hc : ¬c.1 = a := h c (by simp)
    have hm := ih (fun d hd => h d (List.mem_cons_of_mem _ hd))
    by_cases hlt : a < c.1
    · by_cases hk : k = a
      · simp [Memory.insert, hlt, Memory.read, hk]
      · have : ¬a = k := fun e => hk e.symm
        simp [Memory.insert, hlt, Memory.read, hk, this]
    · simp only [Memory.insert, hlt, if_false, Memory.read, hm]
      by_cases hck : c.1 = k
      · have hk : ¬k = a := fun e => hc (hck.trans e)
        simp [hck, hk]
      · simp [hck]

theorem Memory.mem_erase {m : Memory} {a : Nat} {c : Host.Cell} : c ∈ m.erase a ↔ c ∈ m ∧ c.1 ≠ a := by
  simp [Memory.erase]

/-- A read after a write: the written byte at its address, every other address as before. -/
theorem Memory.read_write (m : Memory) (a : Nat) (b : Byte) (k : Nat) :
    (m.write a b).read k = if k = a then b else m.read k := by
  unfold Memory.write
  split
  · next h => rw [Memory.read_erase, h]
  · rw [Memory.read_insert (fun c hc => (Memory.mem_erase.1 hc).2), Memory.read_erase]
    by_cases hk : k = a <;> simp [hk]

@[simp] theorem Memory.read_write_same (m : Memory) (a : Nat) (b : Byte) : (m.write a b).read a = b := by
  simp [Memory.read_write]

theorem Memory.read_write_other (m : Memory) {a k : Nat} (h : k ≠ a) (b : Byte) :
    (m.write a b).read k = m.read k := by
  simp [Memory.read_write, h]

theorem Memory.mem_insert {m : Memory} {a : Nat} {b : Byte} {c : Host.Cell} :
    c ∈ m.insert a b ↔ c = (a, b) ∨ c ∈ m := by
  induction m with
  | nil => simp [Memory.insert]
  | cons d m ih =>
    by_cases h : a < d.1
    · simp [Memory.insert, h]
    · simp only [Memory.insert, h, if_false, List.mem_cons, ih]
      tauto

theorem Memory.pairwise_insert {m : Memory} {a : Nat} (b : Byte) (hne : ∀ c ∈ m, c.1 ≠ a)
    (hp : m.Pairwise fun c d => c.1 < d.1) : (m.insert a b).Pairwise fun c d => c.1 < d.1 := by
  induction m with
  | nil => simp [Memory.insert]
  | cons d m ih =>
    obtain ⟨hd, hm⟩ := List.pairwise_cons.1 hp
    by_cases h : a < d.1
    · simp only [Memory.insert, h, if_true]
      refine List.pairwise_cons.2 ⟨fun e he => ?_, hp⟩
      rcases List.mem_cons.1 he with rfl | he
      · exact h
      · exact Nat.lt_trans h (hd e he)
    · simp only [Memory.insert, h, if_false]
      refine List.pairwise_cons.2 ⟨fun e he => ?_, ih (fun c hc => hne c (List.mem_cons_of_mem _ hc)) hm⟩
      rcases Memory.mem_insert.1 he with rfl | he
      · have := hne d (by simp)
        show d.1 < a
        omega
      · exact hd e he

theorem Memory.wf_erase {m : Memory} (h : m.wf) (a : Nat) : (m.erase a).wf :=
  ⟨h.1.filter _, fun c hc => h.2 c (Memory.mem_erase.1 hc).1⟩

/-- A write inside the array keeps the canonical form. -/
theorem Memory.wf_write {m : Memory} (h : m.wf) {a : Nat} (ha : a < 4096) (b : Byte) : (m.write a b).wf := by
  unfold Memory.write
  split
  · exact Memory.wf_erase h a
  · next hb =>
    have he := Memory.wf_erase h a
    refine ⟨Memory.pairwise_insert b (fun c hc => (Memory.mem_erase.1 hc).2) he.1, fun c hc => ?_⟩
    rcases Memory.mem_insert.1 hc with rfl | hc
    · exact ⟨ha, hb⟩
    · exact he.2 c hc

/-- A write of several bytes keeps the canonical form when all of them lie inside the array. -/
theorem Memory.wf_writeBytes {m : Memory} (h : m.wf) {a : Nat} {bs : List Byte} (ha : a + bs.length ≤ 4096) :
    (m.writeBytes a bs).wf := by
  induction bs generalizing m a with
  | nil => exact h
  | cons b bs ih =>
    simp only [List.length_cons] at ha
    exact ih (Memory.wf_write h (by omega) b) (by omega)

/-- What several written bytes read as: the k-th byte at the k-th address, everything else as before. -/
theorem Memory.read_writeBytes (m : Memory) (a : Nat) (bs : List Byte) (k : Nat) :
    (m.writeBytes a bs).read k = if a ≤ k then bs.getD (k - a) (m.read k) else m.read k := by
  induction bs generalizing m a with
  | nil => simp [Memory.writeBytes]
  | cons b bs ih =>
    simp only [Memory.writeBytes, ih, Memory.read_write]
    rcases Nat.lt_trichotomy k a with h | rfl | h
    · have h1 : ¬a + 1 ≤ k := by omega
      have h2 : ¬a ≤ k := by omega
      have h3 : ¬k = a := by omega
      simp [h1, h2, h3]
    · simp
    · have h1 : a + 1 ≤ k := by omega
      have h2 : a ≤ k := by omega
      have h3 : ¬k = a := by omega
      have h4 : k - a = (k - (a + 1)) + 1 := by omega
      simp [h1, h2, h3, h4]

/-- Outside the written bytes nothing changes. -/
theorem Memory.read_writeBytes_outside (m : Memory) {a k : Nat} {bs : List Byte}
    (h : k < a ∨ a + bs.length ≤ k) : (m.writeBytes a bs).read k = m.read k := by
  rw [Memory.read_writeBytes]
  split
  · rw [List.getD_eq_default]
    omega
  · rfl

/-- A word stored by the host's helper keeps the canonical form. -/
theorem Memory.wf_placeWord {m : Memory} (h : m.wf) (a : Nat) (w : Word) : (m.placeWord a w).wf := by
  unfold Memory.placeWord
  split
  · next hr =>
    have hr' : a + 2 ≤ 4096 := by simpa [inRange, Config.memSize] using hr
    exact Memory.wf_writeBytes h hr'
  · exact h

/-- The power-on memory is in canonical form. -/
theorem Memory.wf_reset : State.reset.mem.wf := by decide

end Sys2Proof.Machine
end

