-- ==== Sys2Proof/Laws/Registers.lean ====
section
/-!
SUPPORT. What the shared operations over registers, the stack, the skips, the faults and the cycle's pieces can do, each said once.
-/

namespace Sys2Proof.Machine

/-! ### Registers -/

theorem State.reg_setReg (s : State) (x r : Reg) (b : Byte) :
    (s.setReg x b).reg r = if r = x then b else s.reg r := by
  have h : x.toNat = r.toNat ↔ r = x :=
    ⟨fun e => (BitVec.eq_of_toNat_eq e).symm, fun e => e ▸ rfl⟩
  simp only [State.reg, State.setReg, Vector.getElem_set, h]

@[simp] theorem State.reg_setReg_same (s : State) (x : Reg) (b : Byte) : (s.setReg x b).reg x = b := by
  simp [State.reg_setReg]

theorem State.reg_setReg_other (s : State) {x r : Reg} (h : r ≠ x) (b : Byte) :
    (s.setReg x b).reg r = s.reg r := by
  simp [State.reg_setReg, h]

/-- VF holds the flag whatever the destination is, the destination holds the result unless it is VF (10_state R23). -/
theorem State.reg_setRegFlag (s : State) (x r : Reg) (b c : Byte) :
    (s.setRegFlag x b c).reg r = if r = regF then c else if r = x then b else s.reg r := by
  simp only [State.setRegFlag, State.reg_setReg]

/-- What the block load leaves in a register (44_index_memory R197). -/
theorem State.reg_loadBlock (s : State) (x r : Reg) :
    (s.loadBlock x).reg r =
      if r.toNat ≤ x.toNat then s.mem.read (s.index.toNat + r.toNat) else s.reg r := by
  simp [State.reg, State.loadBlock]

/-- What a draw leaves in a register: only VF is written (45_display R211). -/
theorem State.reg_drawSprite (s : State) (ps : List Pixel) (r : Reg) :
    (s.drawSprite ps).reg r = if r = regF then collisionFlag (s.fb.draw ps).2 else s.reg r := by
  simp only [State.drawSprite, State.reg_setReg]
  rfl

theorem State.length_regBlock (s : State) (x : Reg) : (s.regBlock x).length = x.toNat + 1 := by
  have := x.isLt
  simp [State.regBlock]
  omega

/-- The k-th byte of the stored block is register k (44_index_memory R195). -/
theorem State.getElem_regBlock (s : State) (x : Reg) {k : Nat} (hk : k ≤ x.toNat) :
    (s.regBlock x)[k]? = some (s.reg (BitVec.ofNat 4 k)) := by
  have hx := x.isLt
  have h16 : k < 16 := by omega
  have hm : k % 16 = k := Nat.mod_eq_of_lt h16
  simp [State.regBlock, State.reg, List.getElem?_take, hm, h16]
  omega

/-! ### The stack -/

theorem State.push_sp_val {s : State} (h : s.sp.val < 16) (w : Word) : (s.push w).sp.val = s.sp.val + 1 := by
  simp [Fin.ofNat]
  omega

theorem State.pop_sp_val (s : State) : s.pop.sp.val = s.sp.val - 1 := by
  have := s.sp.isLt
  simp [Fin.ofNat]
  omega

/-- A push leaves the pushed word on top (10_state R28). -/
theorem State.stackTop_push {s : State} (h : s.sp.val < 16) (w : Word) : (s.push w).stackTop = w := by
  have hp := State.push_sp_val h w
  unfold State.stackTop
  rw [hp]
  simp [Vector.getD, h]

/-! ### Skips and faults -/

/-- The bounds check of a nonempty access is on its last byte (20_memory R55). -/
theorem inRange_pos {a n : Nat} (h : 0 < n) : inRange a n ↔ a + n ≤ 4096 := by
  have : n ≠ 0 := by omega
  simp [inRange, Config.memSize, this]

/-- An access of no byte is always in range (20_memory R55). -/
theorem inRange_zero (a : Nat) : inRange a 0 := .inl rfl

/-- An access at `I` either does its effect or raises its one fault (20_memory R55). -/
theorem accessAtIndex_cases (i : Instr) (n : Nat) (s : State) (f : State → State) :
    (inRange s.index.toNat n ∧ accessAtIndex i n s f = .next (f s)) ∨
    (¬inRange s.index.toNat n ∧ accessAtIndex i n s f =
      .fault (.memoryOutOfRange (max s.index.toNat 4096) (some (encode i)) s.fetchPc)) := by
  unfold accessAtIndex
  split
  · next h => exact .inl ⟨h, rfl⟩
  · next h => exact .inr ⟨h, rfl⟩

theorem accessAtIndex_next {i : Instr} {n : Nat} {s t : State} {f : State → State}
    (h : accessAtIndex i n s f = .next t) : inRange s.index.toNat n ∧ t = f s := by
  rcases accessAtIndex_cases i n s f with ⟨hr, he⟩ | ⟨_, he⟩
  · rw [he] at h
    cases h
    exact ⟨hr, rfl⟩
  · rw [he] at h
    cases h

@[simp] theorem State.fetchPc_advance (s : State) : s.advance.fetchPc = s.pc := by
  simp [State.fetchPc, State.advance]

/-! ### The cycle's pieces -/

theorem countDown_zero : countDown 0#8 = 0#8 := rfl

theorem countDown_ne_zero {t : Byte} (h : t ≠ 0#8) : countDown t = t - 1#8 := by
  simp [countDown, h]

/-- A countdown is a decrement that stops at zero (40_cycle R106). -/
theorem countDown_toNat (t : Byte) : (countDown t).toNat = t.toNat - 1 := by
  by_cases h : t = 0#8
  · subst h
    rfl
  · have : t.toNat ≠ 0 := fun e => h (BitVec.eq_of_toNat_eq e)
    rw [countDown_ne_zero h, BitVec.toNat_sub_of_le]
    · rfl
    · rw [BitVec.le_def]
      show 1 ≤ t.toNat
      omega

/-- How a cycle can end: the instruction's next state passes the pc check and the timers count down (40_cycle R106, R108). -/
theorem endCycle_next {w pcf : Word} {o : Outcome} {t : State} (h : endCycle w pcf o = .next t) :
    ∃ u, o = .next u ∧ u.pc.toNat < 4096 ∧ t = u.countTimers := by
  cases o with
  | next u =>
    by_cases hp : u.pc.toNat < 4096
    · simp only [endCycle, Config.memSize, hp, if_true] at h
      cases h
      exact ⟨u, rfl, hp, rfl⟩
    · simp only [endCycle, Config.memSize, hp, if_false] at h
      cases h
  | fault f => cases h
  | refused r => cases h

/-- A next state that passes the pc check: the timers count down (40_cycle R106). -/
theorem endCycle_inside {w pcf : Word} {u : State} (h : u.pc.toNat ≤ 0xFFF) :
    endCycle w pcf (.next u) = .next u.countTimers := by
  have : u.pc.toNat < 4096 := by omega
  simp [endCycle, Config.memSize, this]

/-- A next state that fails the pc check: the cycle's own fault (40_cycle R108). -/
theorem endCycle_outside {w pcf : Word} {u : State} (h : 0xFFF < u.pc.toNat) :
    endCycle w pcf (.next u) = .fault (.memoryOutOfRange u.pc.toNat (some w) pcf) := by
  have : ¬u.pc.toNat < 4096 := by omega
  simp [endCycle, Config.memSize, this]

theorem fetch_some {s : State} {w : Word} (h : s.fetch = some w) :
    s.pc.toNat + 2 ≤ 4096 ∧ w = s.mem.readWord s.pc.toNat := by
  unfold State.fetch at h
  split at h
  · next hr =>
    cases h
    exact ⟨(inRange_pos (by omega)).1 hr, rfl⟩
  · cases h

/-- The word a fetch inside memory reads (40_cycle R101). -/
theorem fetch_inside {s : State} (h : s.pc.toNat + 2 ≤ 4096) : s.fetch = some (s.mem.readWord s.pc.toNat) := by
  unfold State.fetch
  rw [if_pos ((inRange_pos (by omega)).2 h)]

/-- The step of a decoded instruction (40_cycle R100). -/
theorem cycle_of_decode {s : State} {i : Instr} (h : s.pc.toNat + 2 ≤ 4096)
    (hd : decode (s.mem.readWord s.pc.toNat) = .instr i) :
    cycle s = endCycle (s.mem.readWord s.pc.toNat) s.pc (exec i s.advance) := by
  unfold cycle
  rw [fetch_inside h]
  simp only [runWord, hd]

/-- Everything a cycle that answers a next state did (40_cycle R100). -/
theorem cycle_next {s t : State} (h : cycle s = .next t) :
    ∃ i u, s.pc.toNat + 2 ≤ 4096 ∧ decode (s.mem.readWord s.pc.toNat) = .instr i ∧
      exec i s.advance = .next u ∧ u.pc.toNat < 4096 ∧ t = u.countTimers := by
  unfold cycle at h
  split at h
  · cases h
  · next w hw =>
    obtain ⟨hr, rfl⟩ := fetch_some hw
    unfold runWord at h
    split at h
    · cases h
    · next i hi =>
      obtain ⟨u, hu, hp, rfl⟩ := endCycle_next h
      exact ⟨i, u, hr, hi, hu, hp, rfl⟩

/-- Everything a step that answers a next state did: the arrival of its inputs, then a cycle. -/
theorem step_next {s t : State} (h : step s = .next t) :
    ∃ i u, s.pc.toNat + 2 ≤ 4096 ∧ decode (s.mem.readWord s.pc.toNat) = .instr i ∧
      exec i s.arrive.advance = .next u ∧ u.pc.toNat < 4096 ∧ t = u.countTimers :=
  cycle_next (s := s.arrive) h

/-- The step of a decoded instruction: it runs on the inputs that arrived (40_cycle R100). -/
theorem step_of_decode {s : State} {i : Instr} (h : s.pc.toNat + 2 ≤ 4096)
    (hd : decode (s.mem.readWord s.pc.toNat) = .instr i) :
    step s = endCycle (s.mem.readWord s.pc.toNat) s.pc (exec i s.arrive.advance) :=
  cycle_of_decode (s := s.arrive) h hd

end Sys2Proof.Machine
end

