-- ==== Sys2Proof/Laws/Screen.lean ====
section
/-!
SUPPORT. The laws of the framebuffer: a read after a write, and what drawing a list of pixels does to one pixel and to the collision.
-/

namespace Sys2Proof.Machine

theorem Screen.get_set (f : Screen) (p q : Pixel) (b : Bool) :
    (f.set p b).get q = if q = p then b else f.get q := by
  obtain ⟨px, py⟩ := p
  obtain ⟨qx, qy⟩ := q
  simp only [Screen.get, Screen.set, Fin.getElem_fin, Vector.getElem_set, Prod.mk.injEq]
  by_cases hy : py.val = qy.val
  · have hy' : qy = py := Fin.ext hy.symm
    subst hy'
    by_cases hx : px.val = qx.val
    · have hx' : qx = px := Fin.ext hx.symm
      subst hx'
      simp
    · have hx' : ¬qx = px := fun e => hx (by rw [e])
      simp [hx, hx']
  · have hy' : ¬qy = py := fun e => hy (by rw [e])
    simp [hy, hy']

@[simp] theorem Screen.get_clear (p : Pixel) : Screen.clear.get p = false := by
  simp [Screen.clear, Screen.get]

/-- One more pixel to draw comes last. -/
theorem Screen.draw_append_one (f : Screen) (ps : List Pixel) (p : Pixel) :
    f.draw (ps ++ [p]) = drawPixel (f.draw ps) p := by
  simp [Screen.draw, List.foldl_append]

@[simp] theorem Screen.draw_nil (f : Screen) : f.draw [] = (f, false) := rfl

/-- The framebuffer that drawing leaves does not depend on the collision noted so far. -/
theorem Screen.draw_fst_acc (f : Screen) (c : Bool) (ps : List Pixel) :
    (ps.foldl drawPixel (f, c)).1 = (ps.foldl drawPixel (f, false)).1 := by
  induction ps generalizing f c with
  | nil => rfl
  | cons p ps ih =>
    simp only [List.foldl_cons, drawPixel]
    rw [ih, ih _ (false || f.get p)]

/-- Drawing toggles a pixel once for each time it is listed (45_display R211). -/
theorem Screen.get_draw (f : Screen) (ps : List Pixel) (q : Pixel) :
    (f.draw ps).1.get q = (f.get q ^^ decide (ps.count q % 2 = 1)) := by
  unfold Screen.draw
  induction ps generalizing f with
  | nil => simp
  | cons p ps ih =>
    simp only [List.foldl_cons, drawPixel]
    rw [Screen.draw_fst_acc, ih, Screen.get_set, List.count_cons]
    by_cases hq : q = p
    · subst hq
      rcases Nat.mod_two_eq_zero_or_one (ps.count q) with h | h <;>
        simp [h, Nat.add_mod]
    · have hq' : ¬p = q := fun e => hq e.symm
      simp [hq, hq']

end Sys2Proof.Machine
end

