-- ==== Sys2Proof/Laws/Exec.lean ====
section
/-!
SUPPORT. What each instruction that can fault, or that has two outcomes, can do when it answers a next state; and what the
framebuffer and keypad operations compute. Every other arm of `exec` is one equation, true by rfl.
-/

namespace Sys2Proof.Machine

/-! ### The instructions with a check of their own -/

theorem execRet_next {s t : State} (h : exec .ret s = .next t) : s.sp.val ≠ 0 ∧ t = (s.setPc s.stackTop).pop := by
  simp only [exec, execRet, raise] at h
  split at h
  · cases h
  · next hs =>
    cases h
    exact ⟨hs, rfl⟩

theorem execCall_next {n : Addr12} {s t : State} (h : exec (.call n) s = .next t) :
    s.sp.val < 16 ∧ t = (s.push s.pc).setPc (addrOperand n) := by
  simp only [exec, execCall, raise] at h
  split at h
  · cases h
  · next hs =>
    cases h
    have h16 : s.sp.val ≠ 16 := hs
    exact ⟨by have := s.sp.isLt; omega, rfl⟩

theorem execDrw_next {x y : Reg} {n : Nibble} {s t : State} (h : exec (.drw x y n) s = .next t) :
    inRange s.index.toNat n.toNat ∧ t = s.drawSprite (s.sprite x y n) :=
  accessAtIndex_next (i := .drw x y n) (f := fun s => s.drawSprite (s.sprite x y n)) h

theorem execLdB_next {x : Reg} {s t : State} (h : exec (.ldB x) s = .next t) :
    inRange s.index.toNat 3 ∧ t = s.setMem (s.mem.writeBytes s.index.toNat (decimalDigits (s.reg x))) :=
  accessAtIndex_next (i := .ldB x)
    (f := fun s => s.setMem (s.mem.writeBytes s.index.toNat (decimalDigits (s.reg x)))) h

theorem execLdMemVx_next {x : Reg} {s t : State} (h : exec (.ldMemVx x) s = .next t) :
    inRange s.index.toNat (x.toNat + 1) ∧ t = s.setMem (s.mem.writeBytes s.index.toNat (s.regBlock x)) :=
  accessAtIndex_next (i := .ldMemVx x)
    (f := fun s => s.setMem (s.mem.writeBytes s.index.toNat (s.regBlock x))) h

theorem execLdVxMem_next {x : Reg} {s t : State} (h : exec (.ldVxMem x) s = .next t) :
    inRange s.index.toNat (x.toNat + 1) ∧ t = s.loadBlock x :=
  accessAtIndex_next (i := .ldVxMem x) (f := fun s => s.loadBlock x) h

theorem execLdVxK_next {x : Reg} {s t : State} (h : exec (.ldVxK x) s = .next t) :
    (∃ k, s.lowestKey = some k ∧ t = s.setReg x (BitVec.ofNat 8 k)) ∨ (s.lowestKey = none ∧ t = s.setPc s.fetchPc) := by
  simp only [exec, execLdVxK] at h
  split at h
  · next k hk =>
    cases h
    exact .inl ⟨k, hk, rfl⟩
  · next hk =>
    cases h
    exact .inr ⟨hk, rfl⟩

/-! ### The lowest pressed key (46_timers_keys R231) -/

theorem lowestKey_none {s : State} (h : ∀ k : Fin 16, s.keys[k] = false) : s.lowestKey = none := by
  simp only [State.lowestKey, List.find?_eq_none, List.mem_range]
  intro k hk
  have := h ⟨k, hk⟩
  simpa [Vector.getD, hk] using this

theorem lowestKey_some {s : State} {k : Fin 16} (hk : s.keys[k] = true) (hlow : ∀ j : Fin 16, j < k → s.keys[j] = false) :
    s.lowestKey = some k.val := by
  have h16 : k.val < 16 := k.isLt
  simp only [State.lowestKey, List.find?_range_eq_some]
  refine ⟨by simpa [Vector.getD] using hk, by simp, fun j hj => ?_⟩
  have hj16 : j < 16 := by omega
  have := hlow ⟨j, hj16⟩ hj
  simpa [Vector.getD, hj16] using this

/-! ### The pixels of a sprite (45_display R211, R212, R214) -/

/-- A sprite lists exactly the pixels it covers. -/
theorem mem_sprite (s : State) (x y : Reg) (n : Nibble) (p : Pixel) :
    p ∈ s.sprite x y n ↔ s.spriteCovers x y n p := by
  have key : ∀ (bs : List Byte) (x0 y0 : Nat), p ∈ spritePixels x0 y0 bs ↔
      ∃ r, r < bs.length ∧ ∃ c, c < 8 ∧ (bs.getD r 0).getLsbD (7 - c) = true ∧
        p.1.val = (x0 + c) % 64 ∧ p.2.val = (y0 + r) % 32 := by
    intro bs
    induction bs with
    | nil => simp [spritePixels]
    | cons b bs ih =>
      intro x0 y0
      simp only [spritePixels, List.mem_append, ih, spriteRow, List.mem_map, List.mem_filter, List.mem_range]
      constructor
      · rintro (⟨c, ⟨hc, hb⟩, rfl⟩ | ⟨r, hr, c, hc, hb, h1, h2⟩)
        · exact ⟨0, by simp, c, hc, by simpa using hb, by simp [Fin.ofNat], by simp [Fin.ofNat]⟩
        · exact ⟨r + 1, by simpa using hr, c, hc, by simpa using hb, h1, by rw [h2]; congr 1; omega⟩
      · rintro ⟨r, hr, c, hc, hb, h1, h2⟩
        cases r with
        | zero => exact .inl ⟨c, ⟨hc, by simpa using hb⟩, by ext <;> simp [Fin.ofNat, h1, h2]⟩
        | succ r => exact .inr ⟨r, by simpa using hr, c, hc, by simpa using hb, h1, by rw [h2]; congr 1; omega⟩
  simp only [State.sprite, State.spriteCovers, key, Memory.readBytes, List.length_map, List.length_range]
  constructor
  · rintro ⟨r, hr, c, hc, hb, h⟩
    exact ⟨r, hr, c, hc, by simpa [List.getD, hr] using hb, h⟩
  · rintro ⟨r, hr, c, hc, hb, h⟩
    exact ⟨r, hr, c, hc, by simpa [List.getD, hr] using hb, h⟩

theorem row_of_mem_spritePixels {x0 : Nat} {bs : List Byte} {y0 : Nat} {p : Pixel} (h : p ∈ spritePixels x0 y0 bs) :
    ∃ r, r < bs.length ∧ p.2.val = (y0 + r) % 32 := by
  induction bs generalizing y0 with
  | nil => simp [spritePixels] at h
  | cons b bs ih =>
    simp only [spritePixels, List.mem_append, spriteRow, List.mem_map] at h
    rcases h with ⟨c, _, rfl⟩ | h
    · exact ⟨0, by simp, by simp [Fin.ofNat]⟩
    · obtain ⟨r, hr, e⟩ := ih h
      exact ⟨r + 1, by simpa using hr, by rw [e]; congr 1; omega⟩

/-- The cells of a sprite are distinct, so none is toggled twice by one draw (45_display R214). -/
theorem nodup_spritePixels (x0 y0 : Nat) {bs : List Byte} (hl : bs.length ≤ 32) : (spritePixels x0 y0 bs).Nodup := by
  induction bs generalizing y0 with
  | nil => simp [spritePixels]
  | cons b bs ih =>
    simp only [List.length_cons] at hl
    refine List.Nodup.append ?_ (ih _ (by omega)) ?_
    · refine List.Nodup.map_on ?_ (List.Nodup.filter _ List.nodup_range)
      intro a ha c hc h
      simp only [List.mem_filter, List.mem_range] at ha hc
      simp [Fin.ofNat] at h
      omega
    · intro p hp hq
      simp only [spriteRow, List.mem_map] at hp
      obtain ⟨c, _, rfl⟩ := hp
      obtain ⟨r, hr, h⟩ := row_of_mem_spritePixels hq
      simp [Fin.ofNat] at h
      omega

theorem nodup_sprite (s : State) (x y : Reg) (n : Nibble) : (s.sprite x y n).Nodup :=
  nodup_spritePixels _ _ (by have := n.isLt; simp [Memory.readBytes]; omega)

/-- Drawing distinct pixels collides exactly when one of them was lit (45_display R213). -/
theorem Screen.draw_collides (f : Screen) {ps : List Pixel} (hn : ps.Nodup) :
    (f.draw ps).2 = true ↔ ∃ p ∈ ps, f.get p = true := by
  have key : ∀ (c : Bool) (f : Screen), (ps.foldl drawPixel (f, c)).2 = true ↔ c = true ∨ ∃ p ∈ ps, f.get p = true := by
    induction ps with
    | nil => simp
    | cons q ps ih =>
      intro c f
      obtain ⟨hq, hn⟩ := List.nodup_cons.1 hn
      have same : ∀ p ∈ ps, (f.set q (!f.get q)).get p = f.get p := by
        intro p hp
        have hpq : p ≠ q := fun e => hq (e ▸ hp)
        simp [Screen.get_set, hpq]
      have ex : (∃ p ∈ ps, (f.set q (!f.get q)).get p = true) ↔ ∃ p ∈ ps, f.get p = true :=
        exists_congr fun p => and_congr_right fun hp => by rw [same p hp]
      simp only [List.foldl_cons, drawPixel, ih hn, ex, Bool.or_eq_true, List.mem_cons, exists_eq_or_imp, or_assoc]
  simpa [Screen.draw] using key false f

end Sys2Proof.Machine
end

