-- ==== Sys2Proof/Laws/Host.lean ====
section
/-!
SUPPORT. What the faults of a cycle can be, and what the host's `Step` does with them, each said once.
-/

namespace Sys2Proof.Machine

/-- A fault of an instruction itself is one of the fatal kinds (60_exceptions R252 to R254). -/
theorem exec_fault_fatal {i : Instr} {s : State} {f : Fault} (h : exec i s = .fault f) : f.fatal = true := by
  have acc : ∀ {i n g}, accessAtIndex i n s g = .fault f → f.fatal = true := by
    intro i n g h
    rcases accessAtIndex_cases i n s g with ⟨_, e⟩ | ⟨_, e⟩ <;> rw [e] at h <;> cases h
    rfl
  cases i with
  | ret =>
    simp only [exec, execRet] at h
    split at h <;> cases h
    rfl
  | call n =>
    simp only [exec, execCall] at h
    split at h <;> cases h
    rfl
  | ldVxK x =>
    simp only [exec, execLdVxK] at h
    split at h <;> cases h
  | drw x y n =>
    simp only [exec, execDrw] at h
    exact acc h
  | ldB x =>
    simp only [exec, execLdB] at h
    exact acc h
  | ldMemVx x =>
    simp only [exec, execLdMemVx] at h
    exact acc h
  | ldVxMem x =>
    simp only [exec, execLdVxMem] at h
    exact acc h
  | _ => cases h

/-- How a cycle can fault: on an Invalid word, which no input decides, or with a fatal fault (60_exceptions R258). -/
theorem cycle_fault {s : State} {f : Fault} (h : cycle s = .fault f) :
    (∃ w, f = .invalidInstruction w s.pc ∧ s.pc.toNat + 2 ≤ 4096 ∧ decode (s.mem.readWord s.pc.toNat) = .invalid w) ∨
      f.fatal = true := by
  unfold cycle at h
  split at h
  · cases h
    exact .inr rfl
  · next w hw =>
    obtain ⟨hr, rfl⟩ := fetch_some hw
    unfold runWord at h
    split at h
    · next bad hd =>
      cases h
      exact .inl ⟨bad, rfl, hr, hd⟩
    · next i _ =>
      refine .inr ?_
      cases he : exec i s.advance with
      | next t =>
        rw [he] at h
        simp only [endCycle] at h
        split at h <;> cases h
        rfl
      | fault g =>
        rw [he] at h
        cases h
        exact exec_fault_fatal he
      | refused r =>
        rw [he] at h
        cases h

/-- A cycle at an Invalid word (30_encoding R78). -/
theorem cycle_of_invalid {s : State} {w : Word} (h : s.pc.toNat + 2 ≤ 4096)
    (hd : decode (s.mem.readWord s.pc.toNat) = .invalid w) : cycle s = .fault (.invalidInstruction w s.pc) := by
  unfold cycle
  rw [fetch_inside h]
  simp only [runWord, hd]

/-- `Step` on a session stuck on a fatal fault repeats it (93_implementation_defined I10). -/
theorem Session.step_stuck {h : Session} {f : Fault} (hs : h.stuckOn = some f) (k : Input) :
    h.step k = ({ h with stepped := true }, .fault f) := by
  simp only [Session.step, hs]

/-- `Step` on a session that is not stuck is a cycle (40_cycle R100). -/
theorem Session.step_free {h : Session} (hs : h.stuckOn = none) (k : Input) :
    h.step k = { h with stepped := true }.after (cycle (h.block.withInput k)) := by
  simp only [Session.step, hs]

/-- A session is stuck exactly on a fatal last fault (93_implementation_defined I10). -/
theorem Session.stuckOn_eq_some {h : Session} {f : Fault} :
    h.stuckOn = some f ↔ h.lastFault = some f ∧ f.fatal = true := by
  simp only [Session.stuckOn, Option.filter_eq_some_iff]

/-- What a `Step` that answers a fault leaves: the block as it was, the fault remembered by the host (60_exceptions R256). -/
theorem Session.step_fault {h : Session} {k : Input} {f : Fault} (hf : (h.step k).2 = .fault f) :
    (h.step k).1 = { h with stepped := true, lastFault := some f } ∧
      (h.stuckOn = some f ∨ h.stuckOn = none ∧ cycle (h.block.withInput k) = .fault f) := by
  cases hs : h.stuckOn with
  | some g =>
    rw [Session.step_stuck hs] at hf ⊢
    cases hf
    exact ⟨by simp [(Session.stuckOn_eq_some.1 hs).1], .inl rfl⟩
  | none =>
    rw [Session.step_free hs] at hf ⊢
    cases hc : cycle (h.block.withInput k) with
    | next t =>
      rw [hc] at hf
      cases hf
    | fault g =>
      rw [hc] at hf
      cases hf
      exact ⟨rfl, .inr ⟨rfl, rfl⟩⟩
    | refused r =>
      rw [hc] at hf
      cases hf

end Sys2Proof.Machine
end

