-- ==== Sys2Proof/Laws/PerInstr.lean ====
section
/-!
SUPPORT. Statements made of every instruction form, one lemma per constructor: the word the encoder writes for a form matches the
form's own row of the opcode table (30_encoding R73). It is about the instruction as syntax, not about what it does.
-/

namespace Sys2Proof.Laws

/-- A form's encoding matches the match and mask of its row (30_encoding R73). -/
def MatchesRow.Statement (i : Instr) : Prop := i.row.matches (encode i) = true

theorem getLsbD_packNNN (g : Nibble) (n : Addr12) (k : Nat) :
    (packNNN g n).getLsbD k = if k < 12 then n.getLsbD k else g.getLsbD (k - 12) :=
  BitVec.getLsbD_append

theorem getLsbD_packXNN (g : Nibble) (x : Reg) (nn : Byte) (k : Nat) :
    (packXNN g x nn).getLsbD k =
      if k < 12 then (if k < 8 then nn.getLsbD k else x.getLsbD (k - 8)) else g.getLsbD (k - 12) := by
  rw [show packXNN g x nn = packNNN g (x ++ nn : BitVec 12) from rfl, getLsbD_packNNN,
    show (x ++ nn : BitVec 12).getLsbD k = _ from BitVec.getLsbD_append]

theorem getLsbD_packXYN (g : Nibble) (x y : Reg) (n : Nibble) (k : Nat) :
    (packXYN g x y n).getLsbD k =
      if k < 12 then (if k < 8 then (if k < 4 then n.getLsbD k else y.getLsbD (k - 4)) else x.getLsbD (k - 8))
      else g.getLsbD (k - 12) := by
  rw [show packXYN g x y n = packXNN g x (y ++ n : BitVec 8) from rfl, getLsbD_packXNN,
    show (y ++ n : BitVec 8).getLsbD k = _ from BitVec.getLsbD_append]

theorem matches_packNNN (g : Nibble) (n : Addr12) : (packNNN g n &&& 0xF000#16) = packNNN g 0#12 := by
  apply BitVec.eq_of_getLsbD_eq
  intro k hk
  rw [BitVec.getLsbD_and, getLsbD_packNNN, getLsbD_packNNN]
  interval_cases k <;> simp

theorem matches_packXYN (g : Nibble) (x y : Reg) (n : Nibble) : (packXYN g x y n &&& 0xF00F#16) = packXYN g 0#4 0#4 n := by
  apply BitVec.eq_of_getLsbD_eq
  intro k hk
  rw [BitVec.getLsbD_and, getLsbD_packXYN, getLsbD_packXYN]
  interval_cases k <;> simp

theorem matches_packXNN (g : Nibble) (x : Reg) (nn : Byte) : (packXNN g x nn &&& 0xF0FF#16) = packXNN g 0#4 nn := by
  apply BitVec.eq_of_getLsbD_eq
  intro k hk
  rw [BitVec.getLsbD_and, getLsbD_packXNN, getLsbD_packXNN]
  interval_cases k <;> simp

theorem MatchesRow.cls : MatchesRow.Statement .cls := by
  unfold MatchesRow.Statement
  decide

theorem MatchesRow.ret : MatchesRow.Statement .ret := by
  unfold MatchesRow.Statement
  decide

theorem MatchesRow.sys (nnn : Addr12) : MatchesRow.Statement (.sys nnn) := by
  simp only [MatchesRow.Statement, Instr.row, OpRow.matches, encode, matches_packNNN]
  decide

theorem MatchesRow.jp (nnn : Addr12) : MatchesRow.Statement (.jp nnn) := by
  simp only [MatchesRow.Statement, Instr.row, OpRow.matches, encode, matches_packNNN]
  decide

theorem MatchesRow.call (nnn : Addr12) : MatchesRow.Statement (.call nnn) := by
  simp only [MatchesRow.Statement, Instr.row, OpRow.matches, encode, matches_packNNN]
  decide

theorem MatchesRow.seImm (x : Reg) (nn : Byte) : MatchesRow.Statement (.seImm x nn) := by
  simp only [MatchesRow.Statement, Instr.row, OpRow.matches, encode,
    show packXNN 0x3#4 x nn = packNNN 0x3#4 (x ++ nn : BitVec 12) from rfl, matches_packNNN]
  decide

theorem MatchesRow.sneImm (x : Reg) (nn : Byte) : MatchesRow.Statement (.sneImm x nn) := by
  simp only [MatchesRow.Statement, Instr.row, OpRow.matches, encode,
    show packXNN 0x4#4 x nn = packNNN 0x4#4 (x ++ nn : BitVec 12) from rfl, matches_packNNN]
  decide

theorem MatchesRow.seReg (x y : Reg) : MatchesRow.Statement (.seReg x y) := by
  simp only [MatchesRow.Statement, Instr.row, OpRow.matches, encode, matches_packXYN]
  decide

theorem MatchesRow.ldImm (x : Reg) (nn : Byte) : MatchesRow.Statement (.ldImm x nn) := by
  simp only [MatchesRow.Statement, Instr.row, OpRow.matches, encode,
    show packXNN 0x6#4 x nn = packNNN 0x6#4 (x ++ nn : BitVec 12) from rfl, matches_packNNN]
  decide

theorem MatchesRow.addImm (x : Reg) (nn : Byte) : MatchesRow.Statement (.addImm x nn) := by
  simp only [MatchesRow.Statement, Instr.row, OpRow.matches, encode,
    show packXNN 0x7#4 x nn = packNNN 0x7#4 (x ++ nn : BitVec 12) from rfl, matches_packNNN]
  decide

theorem MatchesRow.ldReg (x y : Reg) : MatchesRow.Statement (.ldReg x y) := by
  simp only [MatchesRow.Statement, Instr.row, OpRow.matches, encode, matches_packXYN]
  decide

theorem MatchesRow.orReg (x y : Reg) : MatchesRow.Statement (.orReg x y) := by
  simp only [MatchesRow.Statement, Instr.row, OpRow.matches, encode, matches_packXYN]
  decide

theorem MatchesRow.andReg (x y : Reg) : MatchesRow.Statement (.andReg x y) := by
  simp only [MatchesRow.Statement, Instr.row, OpRow.matches, encode, matches_packXYN]
  decide

theorem MatchesRow.xorReg (x y : Reg) : MatchesRow.Statement (.xorReg x y) := by
  simp only [MatchesRow.Statement, Instr.row, OpRow.matches, encode, matches_packXYN]
  decide

theorem MatchesRow.addReg (x y : Reg) : MatchesRow.Statement (.addReg x y) := by
  simp only [MatchesRow.Statement, Instr.row, OpRow.matches, encode, matches_packXYN]
  decide

theorem MatchesRow.sub (x y : Reg) : MatchesRow.Statement (.sub x y) := by
  simp only [MatchesRow.Statement, Instr.row, OpRow.matches, encode, matches_packXYN]
  decide

theorem MatchesRow.shr (x : Reg) : MatchesRow.Statement (.shr x) := by
  simp only [MatchesRow.Statement, Instr.row, OpRow.matches, encode, matches_packXYN]
  decide

theorem MatchesRow.subn (x y : Reg) : MatchesRow.Statement (.subn x y) := by
  simp only [MatchesRow.Statement, Instr.row, OpRow.matches, encode, matches_packXYN]
  decide

theorem MatchesRow.shl (x : Reg) : MatchesRow.Statement (.shl x) := by
  simp only [MatchesRow.Statement, Instr.row, OpRow.matches, encode, matches_packXYN]
  decide

theorem MatchesRow.sneReg (x y : Reg) : MatchesRow.Statement (.sneReg x y) := by
  simp only [MatchesRow.Statement, Instr.row, OpRow.matches, encode, matches_packXYN]
  decide

theorem MatchesRow.ldI (nnn : Addr12) : MatchesRow.Statement (.ldI nnn) := by
  simp only [MatchesRow.Statement, Instr.row, OpRow.matches, encode, matches_packNNN]
  decide

theorem MatchesRow.jpV0 (nnn : Addr12) : MatchesRow.Statement (.jpV0 nnn) := by
  simp only [MatchesRow.Statement, Instr.row, OpRow.matches, encode, matches_packNNN]
  decide

theorem MatchesRow.rnd (x : Reg) (nn : Byte) : MatchesRow.Statement (.rnd x nn) := by
  simp only [MatchesRow.Statement, Instr.row, OpRow.matches, encode,
    show packXNN 0xC#4 x nn = packNNN 0xC#4 (x ++ nn : BitVec 12) from rfl, matches_packNNN]
  decide

theorem MatchesRow.drw (x y : Reg) (n : Nibble) : MatchesRow.Statement (.drw x y n) := by
  simp only [MatchesRow.Statement, Instr.row, OpRow.matches, encode,
    show packXYN 0xD#4 x y n = packNNN 0xD#4 (x ++ (y ++ n : BitVec 8) : BitVec 12) from rfl, matches_packNNN]
  decide

theorem MatchesRow.skp (x : Reg) : MatchesRow.Statement (.skp x) := by
  simp only [MatchesRow.Statement, Instr.row, OpRow.matches, encode, matches_packXNN]
  decide

theorem MatchesRow.sknp (x : Reg) : MatchesRow.Statement (.sknp x) := by
  simp only [MatchesRow.Statement, Instr.row, OpRow.matches, encode, matches_packXNN]
  decide

theorem MatchesRow.ldVxDt (x : Reg) : MatchesRow.Statement (.ldVxDt x) := by
  simp only [MatchesRow.Statement, Instr.row, OpRow.matches, encode, matches_packXNN]
  decide

theorem MatchesRow.ldVxK (x : Reg) : MatchesRow.Statement (.ldVxK x) := by
  simp only [MatchesRow.Statement, Instr.row, OpRow.matches, encode, matches_packXNN]
  decide

theorem MatchesRow.ldDtVx (x : Reg) : MatchesRow.Statement (.ldDtVx x) := by
  simp only [MatchesRow.Statement, Instr.row, OpRow.matches, encode, matches_packXNN]
  decide

theorem MatchesRow.ldStVx (x : Reg) : MatchesRow.Statement (.ldStVx x) := by
  simp only [MatchesRow.Statement, Instr.row, OpRow.matches, encode, matches_packXNN]
  decide

theorem MatchesRow.addI (x : Reg) : MatchesRow.Statement (.addI x) := by
  simp only [MatchesRow.Statement, Instr.row, OpRow.matches, encode, matches_packXNN]
  decide

theorem MatchesRow.ldF (x : Reg) : MatchesRow.Statement (.ldF x) := by
  simp only [MatchesRow.Statement, Instr.row, OpRow.matches, encode, matches_packXNN]
  decide

theorem MatchesRow.ldB (x : Reg) : MatchesRow.Statement (.ldB x) := by
  simp only [MatchesRow.Statement, Instr.row, OpRow.matches, encode, matches_packXNN]
  decide

theorem MatchesRow.ldMemVx (x : Reg) : MatchesRow.Statement (.ldMemVx x) := by
  simp only [MatchesRow.Statement, Instr.row, OpRow.matches, encode, matches_packXNN]
  decide

theorem MatchesRow.ldVxMem (x : Reg) : MatchesRow.Statement (.ldVxMem x) := by
  simp only [MatchesRow.Statement, Instr.row, OpRow.matches, encode, matches_packXNN]
  decide

end Sys2Proof.Laws
end

