-- ==== Sys2Proof/Tests/Slice0.lean ====
section
/-!
SUPPORT. Tests of single steps, their expected results from the vectors of 95_test_vectors.md (named in each comment), words decoded
from the table of 30_encoding R73, the smoke test of well-formedness, and a witness for the hypotheses of each statement that has some.
-/

namespace Sys2Proof.Tests

open Sys2Proof.Machine

/-! ### Helpers -/

/-- A state with the word `w` at the address `a` and the pc there, as 95_test_vectors places it. -/
def placed (a w : Nat) (s : State) : State := { s with pc := BitVec.ofNat 16 a }.withFetchWord 16 w

/-- The power-on state with some registers set. -/
def withRegs (rs : List (Nat × Nat)) (s : State) : State :=
  rs.foldl (fun s r => s.setReg (BitVec.ofNat 4 r.1) (BitVec.ofNat 8 r.2)) s

/-- The power-on state with bytes stored from `a` on. -/
def withBytes (a : Nat) (bs : List Byte) (s : State) : State := s.setMem (s.mem.writeBytes a bs)

/-- Keys pressed. -/
def withKeys (ks : List Nat) (s : State) : State := { s with keys := Vector.ofFn fun k : Fin 16 => ks.contains k.val }

/-- Lit pixels. -/
def withLit (ps : List Pixel) (s : State) : State := { s with fb := ps.foldl (fun f p => f.set p true) s.fb }

/-- A stack of these entries, the first at the bottom. -/
def withCalls (ws : List Word) (s : State) : State := ws.foldl (fun s w => s.push w) s

/-- The outcome is a next state that passes a check. -/
def okWith (o : Outcome) (p : State → Bool) : Bool :=
  match o with
  | .next t => p t
  | _ => false

/-- The outcome is this fault. -/
def faultIs (o : Outcome) (f : Fault) : Bool :=
  match o with
  | .fault g => decide (g = f)
  | _ => false

/-- Exactly these pixels are lit. -/
def litExactly (f : Screen) (ps : List Pixel) : Bool := f.toList.map Vector.toList == (withLit ps State.reset).fb.toList.map Vector.toList

/-! ### Well-formedness -/

theorem test_wellFormed_refuses_cls_word : (Instr.sys 0x0E0#12).wellFormed = false := by decide
theorem test_wellFormed_refuses_ret_word : (Instr.sys 0x0EE#12).wellFormed = false := by decide
theorem test_wellFormed_takes_sys : (Instr.sys 0x123#12).wellFormed = true := by decide

/-! ### Decoding: each constructor's word written out from its pattern in 30_encoding R73 -/

theorem test_decode_cls : decodeTableWord 16 0x00E0 = some .cls := by decide
theorem test_decode_ret : decodeTableWord 16 0x00EE = some .ret := by decide
theorem test_decode_sys : decodeTableWord 16 0x0123 = some (.sys 0x123#12) := by decide
theorem test_decode_jp : decodeTableWord 16 0x1ABC = some (.jp 0xABC#12) := by decide
theorem test_decode_call : decodeTableWord 16 0x2210 = some (.call 0x210#12) := by decide
theorem test_decode_seImm : decodeTableWord 16 0x3342 = some (.seImm 3#4 0x42#8) := by decide
theorem test_decode_sneImm : decodeTableWord 16 0x4342 = some (.sneImm 3#4 0x42#8) := by decide
theorem test_decode_seReg : decodeTableWord 16 0x5120 = some (.seReg 1#4 2#4) := by decide
theorem test_decode_ldImm : decodeTableWord 16 0x6A2F = some (.ldImm 0xA#4 0x2F#8) := by decide
theorem test_decode_addImm : decodeTableWord 16 0x7120 = some (.addImm 1#4 0x20#8) := by decide
theorem test_decode_ldReg : decodeTableWord 16 0x8120 = some (.ldReg 1#4 2#4) := by decide
theorem test_decode_orReg : decodeTableWord 16 0x8121 = some (.orReg 1#4 2#4) := by decide
theorem test_decode_andReg : decodeTableWord 16 0x8122 = some (.andReg 1#4 2#4) := by decide
theorem test_decode_xorReg : decodeTableWord 16 0x8123 = some (.xorReg 1#4 2#4) := by decide
theorem test_decode_addReg : decodeTableWord 16 0x8124 = some (.addReg 1#4 2#4) := by decide
theorem test_decode_sub : decodeTableWord 16 0x8125 = some (.sub 1#4 2#4) := by decide
theorem test_decode_shr : decodeTableWord 16 0x81F6 = some (.shr 1#4) := by decide
theorem test_decode_subn : decodeTableWord 16 0x8127 = some (.subn 1#4 2#4) := by decide
theorem test_decode_shl : decodeTableWord 16 0x81FE = some (.shl 1#4) := by decide
theorem test_decode_sneReg : decodeTableWord 16 0x9120 = some (.sneReg 1#4 2#4) := by decide
theorem test_decode_ldI : decodeTableWord 16 0xA300 = some (.ldI 0x300#12) := by decide
theorem test_decode_jpV0 : decodeTableWord 16 0xBFF8 = some (.jpV0 0xFF8#12) := by decide
theorem test_decode_rnd : decodeTableWord 16 0xC30F = some (.rnd 3#4 0x0F#8) := by decide
theorem test_decode_drw : decodeTableWord 16 0xD125 = some (.drw 1#4 2#4 5#4) := by decide
theorem test_decode_skp : decodeTableWord 16 0xE59E = some (.skp 5#4) := by decide
theorem test_decode_sknp : decodeTableWord 16 0xE5A1 = some (.sknp 5#4) := by decide
theorem test_decode_ldVxDt : decodeTableWord 16 0xF307 = some (.ldVxDt 3#4) := by decide
theorem test_decode_ldVxK : decodeTableWord 16 0xF30A = some (.ldVxK 3#4) := by decide
theorem test_decode_ldDtVx : decodeTableWord 16 0xF315 = some (.ldDtVx 3#4) := by decide
theorem test_decode_ldStVx : decodeTableWord 16 0xF318 = some (.ldStVx 3#4) := by decide
theorem test_decode_addI : decodeTableWord 16 0xF21E = some (.addI 2#4) := by decide
theorem test_decode_ldF : decodeTableWord 16 0xF429 = some (.ldF 4#4) := by decide
theorem test_decode_ldB : decodeTableWord 16 0xF033 = some (.ldB 0#4) := by decide
theorem test_decode_ldMemVx : decodeTableWord 16 0xF255 = some (.ldMemVx 2#4) := by decide
theorem test_decode_ldVxMem : decodeTableWord 16 0xF165 = some (.ldVxMem 1#4) := by decide

/-- Vectors X1 to X6, S10 and S16, and the edges of the sub-selectors: no word falls through to a neighbour. -/
theorem test_decode_invalid :
    [0x5121, 0x9121, 0x8128, 0x8129, 0x812D, 0x812F, 0xE000, 0xE59F, 0xE5A0, 0xF000, 0xF0FF, 0xF06F].map (decodeTableWord 16) =
      List.replicate 12 none := by decide

/-! ### Register loads, arithmetic, bitwise, shift, random (vectors A) -/

theorem test_addReg_carry_A1 :
    okWith (step (placed 0x200 0x8124 (withRegs [(1, 0xFF), (2, 0x01)] State.reset)))
      (fun t => t.reg 1#4 == 0x00#8 && t.reg 15#4 == 1#8 && t.pc == 0x202#16) = true := by decide
theorem test_addReg_flag_wins_A5 :
    okWith (step (placed 0x200 0x8F14 (withRegs [(15, 0xF0), (1, 0x20)] State.reset))) (fun t => t.reg 15#4 == 1#8) = true := by decide
theorem test_sub_borrow_A7 :
    okWith (step (placed 0x200 0x8125 (withRegs [(1, 0x05), (2, 0x0A)] State.reset)))
      (fun t => t.reg 1#4 == 0xFB#8 && t.reg 15#4 == 0#8) = true := by decide
theorem test_sub_equal_A8 :
    okWith (step (placed 0x200 0x8125 (withRegs [(1, 0x0A), (2, 0x0A)] State.reset)))
      (fun t => t.reg 1#4 == 0#8 && t.reg 15#4 == 1#8) = true := by decide
theorem test_subn_borrow_A11 :
    okWith (step (placed 0x200 0x8127 (withRegs [(1, 0x0A), (2, 0x05)] State.reset)))
      (fun t => t.reg 1#4 == 0xFB#8 && t.reg 15#4 == 0#8) = true := by decide
theorem test_subn_A12 :
    okWith (step (placed 0x200 0x8127 (withRegs [(1, 0x05), (2, 0x0A)] State.reset)))
      (fun t => t.reg 1#4 == 0x05#8 && t.reg 15#4 == 1#8) = true := by decide
theorem test_shr_ignores_y_A16 :
    okWith (step (placed 0x200 0x81F6 (withRegs [(1, 0x02), (15, 0x07)] State.reset)))
      (fun t => t.reg 1#4 == 0x01#8 && t.reg 15#4 == 0#8) = true := by decide
theorem test_shr_flag_wins_A17 :
    okWith (step (placed 0x200 0x8F06 (withRegs [(15, 0x03)] State.reset))) (fun t => t.reg 15#4 == 1#8) = true := by decide
theorem test_shl_A18 :
    okWith (step (placed 0x200 0x810E (withRegs [(1, 0x81)] State.reset)))
      (fun t => t.reg 1#4 == 0x02#8 && t.reg 15#4 == 1#8) = true := by decide
theorem test_shl_no_carry_A19 :
    okWith (step (placed 0x200 0x810E (withRegs [(1, 0x7F), (15, 1)] State.reset)))
      (fun t => t.reg 1#4 == 0xFE#8 && t.reg 15#4 == 0#8) = true := by decide
theorem test_or_A21 :
    okWith (step (placed 0x200 0x8121 (withRegs [(1, 0xF0), (2, 0x0F), (15, 0x55)] State.reset)))
      (fun t => t.reg 1#4 == 0xFF#8 && t.reg 15#4 == 0x55#8) = true := by decide
theorem test_and_A22 :
    okWith (step (placed 0x200 0x8122 (withRegs [(1, 0xF0), (2, 0x3C), (15, 0x55)] State.reset)))
      (fun t => t.reg 1#4 == 0x30#8 && t.reg 15#4 == 0x55#8) = true := by decide
theorem test_xor_A23 :
    okWith (step (placed 0x200 0x8123 (withRegs [(1, 0xF0), (2, 0x3C), (15, 0x55)] State.reset)))
      (fun t => t.reg 1#4 == 0xCC#8 && t.reg 15#4 == 0x55#8) = true := by decide
theorem test_copy_A25 :
    okWith (step (placed 0x200 0x8120 (withRegs [(2, 0x33)] State.reset))) (fun t => t.reg 1#4 == 0x33#8) = true := by decide
theorem test_ldImm_A26 : okWith (step (placed 0x200 0x6A2F State.reset)) (fun t => t.reg 10#4 == 0x2F#8) = true := by decide
theorem test_addImm_A28 :
    okWith (step (placed 0x200 0x7120 (withRegs [(1, 0xF0), (15, 0x07)] State.reset)))
      (fun t => t.reg 1#4 == 0x10#8 && t.reg 15#4 == 0x07#8) = true := by decide
theorem test_addImm_to_vf_A29 :
    okWith (step (placed 0x200 0x7F01 (withRegs [(15, 0xFF)] State.reset))) (fun t => t.reg 15#4 == 0#8) = true := by decide
theorem test_rnd_A30 :
    okWith (cycle (placed 0x200 0xC30F { State.reset with rand := 0xA7#8 })) (fun t => t.reg 3#4 == 0x07#8) = true := by decide
/-- A31: a mask of 0 gives 0 whatever the random byte is; here it is the free one of the power-on state. -/
theorem test_rnd_zero_mask_A31 : okWith (exec (.rnd 3#4 0#8) State.reset) (fun t => t.reg 3#4 == 0#8) = true := by
  simp [okWith, exec, execRnd]

/-! ### Control transfer and stack (vectors F) -/

theorem test_sys_F1 : okWith (step (placed 0x200 0x0123 State.reset)) (fun t => t.pc == 0x202#16) = true := by decide
theorem test_jp_self_F3 : okWith (step (placed 0x202 0x1202 State.reset)) (fun t => t.pc == 0x202#16) = true := by decide
theorem test_call_F5 :
    okWith (step (placed 0x204 0x2210 State.reset))
      (fun t => t.pc == 0x210#16 && t.sp == 1 && t.stack[0] == 0x206#16) = true := by decide
theorem test_call_full_F7 :
    faultIs (step (placed 0x200 0x2300 (withCalls (List.replicate 16 0x202#16) State.reset)))
      (.stackOverflow 0x2300#16 0x200#16) = true := by decide
theorem test_ret_F8 :
    okWith (step (placed 0x210 0x00EE (withCalls [0x206#16] State.reset))) (fun t => t.pc == 0x206#16 && t.sp == 0) = true := by decide
theorem test_ret_empty_F9 :
    faultIs (step (placed 0x200 0x00EE State.reset)) (.stackUnderflow 0x00EE#16 0x200#16) = true := by decide
theorem test_ret_to_top_F10 :
    faultIs (step (placed 0x200 0x00EE (withCalls [0x1000#16] State.reset)))
      (.memoryOutOfRange 0x1000 (some 0x00EE#16) 0x200#16) = true := by decide
theorem test_call_at_top_F11 :
    okWith (step (placed 0xFFE 0x2400 State.reset)) (fun t => t.pc == 0x400#16 && t.stack[0] == 0x1000#16) = true := by decide
theorem test_jpV0_F12 :
    okWith (step (placed 0x200 0xB300 (withRegs [(0, 4)] State.reset))) (fun t => t.pc == 0x304#16) = true := by decide
theorem test_jpV0_out_F14 :
    faultIs (step (placed 0x200 0xBFF8 (withRegs [(0, 0x10)] State.reset)))
      (.memoryOutOfRange 0x1008 (some 0xBFF8#16) 0x200#16) = true := by decide

/-! ### Skips (vectors S) -/

theorem test_seImm_S1 :
    okWith (step (placed 0x200 0x3342 (withRegs [(3, 0x42)] State.reset))) (fun t => t.pc == 0x204#16) = true := by decide
theorem test_seImm_not_S2 :
    okWith (step (placed 0x200 0x3342 (withRegs [(3, 0x41)] State.reset))) (fun t => t.pc == 0x202#16) = true := by decide
theorem test_sneImm_S3 :
    okWith (step (placed 0x200 0x4342 (withRegs [(3, 0x41)] State.reset))) (fun t => t.pc == 0x204#16) = true := by decide
theorem test_seReg_S5 :
    okWith (step (placed 0x200 0x5120 (withRegs [(1, 7), (2, 7)] State.reset))) (fun t => t.pc == 0x204#16) = true := by decide
theorem test_sneReg_S8 :
    okWith (step (placed 0x200 0x9120 (withRegs [(1, 7), (2, 8)] State.reset))) (fun t => t.pc == 0x204#16) = true := by decide
theorem test_skp_low_nibble_S13 :
    okWith (cycle (placed 0x200 0xE59E (withKeys [10] (withRegs [(5, 0x1A)] State.reset)))) (fun t => t.pc == 0x204#16) = true := by decide
theorem test_skp_no_key_S12 :
    okWith (cycle (placed 0x200 0xE59E (withRegs [(5, 0x0A)] State.reset))) (fun t => t.pc == 0x202#16) = true := by decide
theorem test_sknp_S14 :
    okWith (cycle (placed 0x200 0xE5A1 (withRegs [(5, 0x0A)] State.reset))) (fun t => t.pc == 0x204#16) = true := by decide
theorem test_sknp_pressed_S15 :
    okWith (cycle (placed 0x200 0xE5A1 (withKeys [10] (withRegs [(5, 0x0A)] State.reset)))) (fun t => t.pc == 0x202#16) = true := by decide
theorem test_skip_top_S17 :
    faultIs (step (placed 0xFFC 0x3000 State.reset)) (.memoryOutOfRange 0x1000 (some 0x3000#16) 0xFFC#16) = true := by decide

/-! ### Index register and memory (vectors M) -/

theorem test_ldI_M1 : okWith (step (placed 0x200 0xA300 State.reset)) (fun t => t.index == 0x300#16) = true := by decide
theorem test_addI_wraps_M3 :
    okWith (step (placed 0x200 0xF21E (withRegs [(2, 2)] { State.reset with index := 0xFFFF#16 })))
      (fun t => t.index == 1#16 && t.reg 15#4 == 0#8) = true := by decide
theorem test_ldF_low_nibble_M6 :
    okWith (step (placed 0x200 0xF429 (withRegs [(4, 0x1B)] State.reset))) (fun t => t.index == 0x87#16) = true := by decide
theorem test_ldB_M7 :
    okWith (step (placed 0x200 0xF033 (withRegs [(0, 234)] { State.reset with index := 0x300#16 })))
      (fun t => t.mem.readBytes 0x300 3 == [2#8, 3#8, 4#8] && t.index == 0x300#16) = true := by decide
theorem test_ldB_out_M12 :
    faultIs (step (placed 0x200 0xF033 (withRegs [(0, 1)] { State.reset with index := 0xFFE#16 })))
      (.memoryOutOfRange 0x1000 (some 0xF033#16) 0x200#16) = true := by decide
theorem test_ldMemVx_M13 :
    okWith (step (placed 0x200 0xF255 (withRegs [(0, 1), (1, 2), (2, 3), (3, 4)] { State.reset with index := 0x300#16 })))
      (fun t => t.mem.readBytes 0x300 4 == [1#8, 2#8, 3#8, 0#8]) = true := by decide
theorem test_ldMemVx_out_M16 :
    faultIs (step (placed 0x200 0xFF55 { State.reset with index := 0xFF1#16 }))
      (.memoryOutOfRange 0x1000 (some 0xFF55#16) 0x200#16) = true := by decide
theorem test_ldVxMem_M17 :
    okWith (step (placed 0x200 0xF165 (withRegs [(2, 0x11)] (withBytes 0x300 [0xAB#8, 0xCD#8, 0xEF#8] { State.reset with index := 0x300#16 }))))
      (fun t => t.reg 0#4 == 0xAB#8 && t.reg 1#4 == 0xCD#8 && t.reg 2#4 == 0x11#8) = true := by decide
theorem test_ldVxMem_out_M19 :
    faultIs (step (placed 0x200 0xF065 { State.reset with index := 0x1000#16 }))
      (.memoryOutOfRange 0x1000 (some 0xF065#16) 0x200#16) = true := by decide

/-! ### Framebuffer writer (vectors D) -/

theorem test_drw_wraps_D1 :
    okWith (step (placed 0x200 0xD011 (withRegs [(0, 63), (1, 31)] (withBytes 0x300 [0xFF#8] { State.reset with index := 0x300#16 }))))
      (fun t => litExactly t.fb [(0, 31), (1, 31), (2, 31), (3, 31), (4, 31), (5, 31), (6, 31), (63, 31)] && t.reg 15#4 == 0#8) = true := by
  decide
theorem test_drw_vf_operand_D10 :
    okWith (step (placed 0x200 0xDFF1 (withLit [(10, 10)] (withRegs [(15, 10)] (withBytes 0x300 [0x80#8] { State.reset with index := 0x300#16 })))))
      (fun t => litExactly t.fb [] && t.reg 15#4 == 1#8) = true := by decide
theorem test_cls_D11 :
    okWith (step (placed 0x200 0x00E0 (withLit [(5, 5)] (withRegs [(15, 3)] State.reset))))
      (fun t => litExactly t.fb [] && t.reg 15#4 == 3#8) = true := by decide

/-! ### Timers and key-wait (vectors T) -/

theorem test_ldVxDt_T1 :
    okWith (step (placed 0x200 0xF307 { State.reset with dt := 5#8, st := 2#8 }))
      (fun t => t.reg 3#4 == 5#8 && t.dt == 4#8 && t.st == 1#8) = true := by decide
theorem test_ldDtVx_T3 :
    okWith (step (placed 0x200 0xF315 (withRegs [(3, 3)] State.reset))) (fun t => t.dt == 2#8 && t.st == 0#8) = true := by decide
theorem test_ldStVx_T6 :
    okWith (step (placed 0x200 0xF318 (withRegs [(3, 0xFF)] State.reset))) (fun t => t.st == 254#8 && t.dt == 0#8) = true := by decide
theorem test_ldVxK_waits_T7 :
    okWith (cycle (placed 0x200 0xF30A { State.reset with dt := 2#8 })) (fun t => t.pc == 0x200#16 && t.dt == 1#8) = true := by decide
theorem test_ldVxK_lowest_T8 :
    okWith (cycle (placed 0x200 0xF30A (withKeys [5, 9] State.reset))) (fun t => t.pc == 0x202#16 && t.reg 3#4 == 5#8) = true := by decide

/-! ### Decoder and cycle driver (vectors X), host operations -/

theorem test_invalid_X6 :
    faultIs (step (placed 0x200 0xF0FF { State.reset with dt := 4#8 })) (.invalidInstruction 0xF0FF#16 0x200#16) = true := by decide
theorem test_sys_at_top_X7 :
    faultIs (step (placed 0xFFE 0x0000 State.reset)) (.memoryOutOfRange 0x1000 (some 0x0000#16) 0xFFE#16) = true := by decide
theorem test_fetch_X8 :
    faultIs (step { State.reset with pc := 0xFFF#16 }) (.memoryOutOfRange 0x1000 none 0xFFF#16) = true := by decide
theorem test_fetch_X9 :
    faultIs (step { State.reset with pc := 0x1000#16 }) (.memoryOutOfRange 0x1000 none 0x1000#16) = true := by decide
/-- Glyph A of 10_state R37 stands at 0x082. -/
theorem test_font_glyph_A : State.reset.mem.readBytes 0x082 5 = [0xF0#8, 0x90#8, 0xF0#8, 0x90#8, 0x90#8] := by decide
/-- Program P3's first words, loaded (70_reset_and_hazards R284). -/
theorem test_load :
    okWith (loadImage [0xA3#8, 0x00#8, 0x60#8] State.reset) (fun t => t.mem.readBytes 0x200 4 == [0xA3#8, 0x00#8, 0x60#8, 0x00#8]) = true := by
  decide
/-- Inputs already decided are taken before free ones, by the very next cycle (log entry 2). -/
theorem test_arrive_script :
    okWith (step { State.reset with inputs := [⟨Vector.replicate 16 true, 0xA7#8⟩] })
      (fun t => t.keys[3] && t.rand == 0xA7#8 && t.inputs.isEmpty) = true := by decide
/-- The first step after power-on reads keys that arrived before it (70_reset_and_hazards R291), with S13's word. -/
theorem test_first_step_sees_keys :
    okWith (step { placed 0x200 0xE59E State.reset with inputs := [⟨Vector.replicate 16 true, 0#8⟩] })
      (fun t => t.pc == 0x204#16) = true := by decide
/-- A key form runs as the first instruction whatever the free snapshot of the first step is. -/
theorem test_first_step_skp : ∃ t, step (placed 0x200 0xE59E State.reset) = .next t := by
  rw [step_of_decode (i := .skp 5#4) (by decide) (by decide)]
  refine ⟨_, endCycle_inside ?_⟩
  rw [State.skipIf_pc]
  split <;> decide
theorem test_first_step_sknp : ∃ t, step (placed 0x200 0xE5A1 State.reset) = .next t := by
  rw [step_of_decode (i := .sknp 5#4) (by decide) (by decide)]
  refine ⟨_, endCycle_inside ?_⟩
  rw [State.skipIf_pc]
  split <;> decide
theorem test_first_step_ldVxK : ∃ t, step (placed 0x200 0xF30A State.reset) = .next t := by
  rw [step_of_decode (i := .ldVxK 3#4) (by decide) (by decide)]
  cases h : (placed 0x200 0xF30A State.reset).arrive.advance.lowestKey with
  | none =>
    simp only [exec, execLdVxK, h]
    exact ⟨_, endCycle_inside (by decide)⟩
  | some k =>
    simp only [exec, execLdVxK, h]
    exact ⟨_, endCycle_inside (by rw [State.setReg_pc]; decide)⟩
/-- Program P7: an invalid word, HostSkip, and the word after it. -/
theorem test_host_skip_P7 :
    let h : Session := { Session.start with block := withBytes 0x200 [0x51#8, 0x21#8] State.reset }
    let g := (h.step ⟨Vector.replicate 16 false, 0#8⟩).1
    (g.block.pc, (g.hostSkip).1.block.pc) = (0x200#16, 0x202#16) := by decide
theorem test_load_after_step_refused :
    ((Session.start.step ⟨Vector.replicate 16 false, 0#8⟩).1.load []).2 = .refused .loadAfterStep := by decide
theorem test_second_load_refused : ((Session.start.load [0x12#8, 0x00#8]).1.load []).2 = .refused .loadTwice := by decide
/-- 93_implementation_defined I10: after MemoryOutOfRange a `Step` with another snapshot repeats the fault; PowerOn leaves it. -/
theorem test_fatal_fault_repeats :
    let h : Session := { Session.start with block := placed 0xFFE 0xF30A State.reset }
    let g := (h.step ⟨Vector.replicate 16 true, 0#8⟩).1
    (g.step ⟨Vector.replicate 16 false, 0#8⟩).2 = .fault (.memoryOutOfRange 0x1000 (some 0xF30A#16) 0xFFE#16) ∧
      (g.call .hostSkip).2 = .refused .skipNotOffered ∧ (g.call .powerOn).2 = .ok := by decide

/-! ### Witnesses: for each statement with hypotheses, states and operands that meet them all, at the boundary of each clause -/

/-- A checked outcome is a next state. -/
theorem next_of_okWith {o : Outcome} (p : State → Bool) (h : okWith o p = true) : ∃ t, o = .next t ∧ p t = true := by
  cases o with
  | next t => exact ⟨t, rfl, h⟩
  | fault f => cases h
  | refused r => cases h

/-- A checked outcome is that fault. -/
theorem fault_of_faultIs {o : Outcome} {f : Fault} (h : faultIs o f = true) : o = .fault f := by
  cases o with
  | next t => cases h
  | fault g => exact congrArg _ (of_decide_eq_true h)
  | refused r => cases h

theorem witness_DecodeInvertsEncode :
    (Instr.drw 0xF#4 0xF#4 0xF#4).wellFormed = true ∧ (Instr.sys 0x0E1#12).wellFormed = true := by decide
theorem witness_EncodeInvertsDecode : decode 0x81F6#16 = .instr (.shr 1#4) ∧ decode 0xFF65#16 = .instr (.ldVxMem 15#4) := by decide
theorem witness_InvalidExactlyWhenNoRowMatches :
    decode 0x5121#16 = .invalid 0x5121#16 ∧ ∀ r ∈ opcodeTable, r.matches 0x5121#16 = false := by decide
theorem witness_DecodedFormIsFirstMatchingRow : decode 0x00E0#16 = .instr .cls := by decide
theorem witness_OnlySysAndShiftsIgnoreBits :
    decode 0xDFFF#16 = .instr (.drw 15#4 15#4 15#4) ∧ (∀ x, Instr.drw 15#4 15#4 15#4 ≠ .shr x) ∧
      ∀ x, Instr.drw 15#4 15#4 15#4 ≠ .shl x := by
  refine ⟨by decide, fun x h => ?_, fun x h => ?_⟩ <;> cases h
theorem witness_FetchWordHelperPlacesTheWord :
    ({ State.reset with pc := 0xFFE#16 } : State).pc.toNat ≤ 0xFFE ∧ 0xFFFF < 65536 := by decide
theorem witness_StepRunsDecodedInstruction :
    (placed 0xFFE 0x1200 State.reset).atInstr (.jp 0x200#12) ∧ (placed 0 0x6A2F State.reset).atInstr (.ldImm 10#4 0x2F#8) := by decide
theorem witness_NextInputsArrive :
    State.reset.inputs = [] ∧ ({ State.reset with inputs := [⟨Vector.replicate 16 true, 1#8⟩] } : State).inputs =
      ⟨Vector.replicate 16 true, 1#8⟩ :: [] := ⟨rfl, rfl⟩
theorem witness_FetchReadsWordOrFaults :
    0xFFF ≤ ({ State.reset with pc := 0xFFF#16 } : State).pc.toNat ∧ ({ State.reset with pc := 0xFFE#16 } : State).pc.toNat < 0xFFF := by
  decide
theorem witness_InvalidWordFaults :
    (placed 0xFFE 0x5121 State.reset).pc.toNat ≤ 0xFFE ∧ decode (placed 0xFFE 0x5121 State.reset).wordAt = .invalid 0x5121#16 := by decide
theorem witness_TimersCountDownOncePerCycle :
    ∃ t, cycle (placed 0xFFC 0x6A2F { State.reset with dt := 1#8 }) = .next t ∧ (t.dt == 0#8 && t.st == 0#8) = true :=
  next_of_okWith _ (by decide)
theorem witness_PcStaysInsideMemory_next : ∃ t, step (placed 0xFFE 0x1FFF State.reset) = .next t ∧ (t.pc == 0xFFF#16) = true :=
  next_of_okWith _ (by decide)
theorem witness_PcStaysInsideMemory_out :
    (placed 0xFFC 0x3000 State.reset).atInstr (.seImm 0#4 0#8) ∧
      ∃ u, exec (.seImm 0#4 0#8) (placed 0xFFC 0x3000 State.reset).advance = .next u ∧ decide (0xFFF < u.pc.toNat) = true :=
  ⟨by decide, next_of_okWith _ (by decide)⟩
theorem witness_PcStaysInsideMemory_keyWait :
    (placed 0xFFE 0xF30A State.reset).atInstr (.ldVxK 3#4) ∧ (∀ k : Fin 16, (placed 0xFFE 0xF30A State.reset).keys[k] = false) ∧
      ∃ u, exec (.ldVxK 3#4) (placed 0xFFE 0xF30A State.reset).advance = .next u ∧ (u.pc == 0xFFE#16) = true :=
  ⟨by decide, by decide, next_of_okWith _ (by decide)⟩
theorem witness_PcStaysInsideMemory_jp :
    (placed 0xFFE 0x1FFF State.reset).atInstr (.jp 0xFFF#12) ∧
      ∃ u, exec (.jp 0xFFF#12) (placed 0xFFE 0x1FFF State.reset).advance = .next u ∧ true = true :=
  ⟨by decide, next_of_okWith (fun _ => true) (by decide)⟩
theorem witness_EveryStepKeepsInv :
    (placed 0x200 0xF255 (withCalls [2#16, 0x1000#16] { State.reset with index := 0xFFD#16 })).Inv ∧
      ∃ t, step (placed 0x200 0xF255 (withCalls [2#16, 0x1000#16] { State.reset with index := 0xFFD#16 })) = .next t ∧
        (t.pc == 0x202#16) = true :=
  ⟨by decide, next_of_okWith _ (by decide)⟩
theorem witness_FaultsComeInOrder_fetch : 0xFFE < ({ State.reset with pc := 0xFFF#16 } : State).pc.toNat := by decide
theorem witness_FaultsComeInOrder_own :
    (placed 0xFFE 0x00EE State.reset).atInstr .ret ∧
      exec .ret (placed 0xFFE 0x00EE State.reset).advance = .fault (.stackUnderflow 0x00EE#16 0xFFE#16) :=
  ⟨by decide, fault_of_faultIs (by decide)⟩
theorem witness_FaultsComeInOrder_access :
    exec (.drw 0#4 0#4 1#4) { State.reset with index := 0x1000#16, pc := 0x202#16 } =
      .fault (.memoryOutOfRange 0x1000 (some 0xD001#16) 0x200#16) := fault_of_faultIs (by decide)
theorem witness_FaultIgnoresAllInputs :
    cycle (({ State.reset with pc := 0x1000#16 } : State).withInput ⟨Vector.replicate 16 false, 0#8⟩) =
      .fault (.memoryOutOfRange 0x1000 none 0x1000#16) := fault_of_faultIs (by decide)
/-- The counterexample to R110 read literally of one bare cycle (log entry 26): the same state, one key pressed or none. -/
theorem test_key_decides_a_fault :
    faultIs (cycle (placed 0xFFE 0xF30A (withKeys [0] State.reset))) (.memoryOutOfRange 0x1000 (some 0xF30A#16) 0xFFE#16) = true ∧
      okWith (cycle (placed 0xFFE 0xF30A State.reset)) (fun t => t.pc == 0xFFE#16) = true := by decide
theorem witness_FaultIgnoresInputsButKeyForms :
    (∀ i, (placed 0x200 0x00EE State.reset).atInstr i → readsKeys i = false) ∧
      cycle ((placed 0x200 0x00EE State.reset).withInput ⟨Vector.replicate 16 true, 0xFF#8⟩) =
        .fault (.stackUnderflow 0x00EE#16 0x200#16) := by
  refine ⟨fun i h => ?_, fault_of_faultIs (by decide)⟩
  have hd : decode (placed 0x200 0x00EE State.reset).wordAt = .instr .ret := by decide
  have hi := h.2
  rw [hd] at hi
  cases hi
  rfl
theorem witness_LoadCopiesImageOrFaults :
    (List.replicate 3584 1#8).length ≤ 3584 ∧ 3584 < (List.replicate 3585 1#8).length := by
  simp only [List.length_replicate]
  decide

/-- A session whose last call faulted with InvalidInstruction at the top of memory. -/
def afterInvalid : Session :=
  ({ Session.start with block := placed 0xFFE 0x5121 State.reset }.step ⟨Vector.replicate 16 false, 0#8⟩).1

theorem load_too_long (image : List Byte) (h : image.length = 3585) :
    (Session.start.load image).2 = .fault (.programTooLarge 3585) := by
  simp only [Session.load, Session.start, loadImage, h]
  rfl
theorem witness_LoadOnlyBeforeFirstStep_first :
    Session.start.stepped = false ∧ Session.start.loaded = false ∧
      (∃ t, loadImage [0x12#8, 0x00#8] Session.start.block = .next t ∧ (t.pc == 0x200#16) = true) ∧
      loadImage (List.replicate 3585 0#8) Session.start.block = .fault (.programTooLarge 3585) := by
  refine ⟨rfl, rfl, next_of_okWith _ (by decide), ?_⟩
  simp only [loadImage, List.length_replicate]
  rfl
theorem witness_LoadOnlyBeforeFirstStep_second :
    (Session.start.load []).1.stepped = false ∧ (Session.start.load []).1.loaded = true := by decide
theorem witness_LoadOnlyBeforeFirstStep : afterInvalid.stepped = true ∧ HostCall.hostSkip ≠ .powerOn := by decide
theorem witness_HostSkipOnlyAfterInvalid :
    afterInvalid.lastFault = some (.invalidInstruction 0x5121#16 0xFFE#16) ∧
      (∀ w p, Session.start.lastFault ≠ some (.invalidInstruction w p)) ∧
      (afterInvalid.step ⟨Vector.replicate 16 true, 0#8⟩).2 = .fault (.invalidInstruction 0x5121#16 0xFFE#16) ∧
      afterInvalid.block.pc = 0xFFE#16 ∧ afterInvalid.hostSkip.1.block.pc = 0x1000#16 := by
  refine ⟨by decide, fun w p h => ?_, by decide, by decide, by decide⟩
  cases h
theorem witness_FaultLeavesBlockUnchanged :
    (afterInvalid.step ⟨Vector.replicate 16 true, 0#8⟩).2 = .fault (.invalidInstruction 0x5121#16 0xFFE#16) ∧
      (Session.start.load (List.replicate 3585 0#8)).2 = .fault (.programTooLarge 3585) :=
  ⟨by decide, load_too_long _ List.length_replicate⟩

/-- A session whose last call faulted with MemoryOutOfRange: a fetch at 0x1000. -/
def atTheEnd : Session := { Session.start with block := { State.reset with pc := 0x1000#16 } }

theorem witness_FaultRepeatsUntilPowerOn :
    (atTheEnd.step ⟨Vector.replicate 16 true, 0#8⟩).2 = .fault (.memoryOutOfRange 0x1000 none 0x1000#16) ∧
      (∀ w p, Fault.memoryOutOfRange 0x1000 none 0x1000#16 ≠ .invalidInstruction w p) ∧
      HostCall.step ⟨Vector.replicate 16 false, 1#8⟩ ≠ .powerOn ∧
      (afterInvalid.step ⟨Vector.replicate 16 true, 0#8⟩).2 = .fault (.invalidInstruction 0x5121#16 0xFFE#16) :=
  ⟨by decide, nofun, by decide, by decide⟩

theorem witness_SysIsANoOp :
    0x123#12 ≠ 0x0E0#12 ∧ 0x123#12 ≠ 0x0EE#12 ∧ (placed 0xFFE 0x0123 State.reset).atInstr (.sys 0x123#12) ∧
      (placed 0xFFD 0x0123 State.reset).atInstr (.sys 0x123#12) ∧ (placed 0xFFD 0x0123 State.reset).pc.toNat < 0xFFE := by decide
theorem witness_ReturnPopsOrUnderflows :
    State.reset.sp.val = 0 ∧ (withCalls [0x1000#16] State.reset).sp.val ≠ 0 ∧
      (placed 0x200 0x00EE (withCalls [0x1000#16] State.reset)).atInstr .ret ∧
      (placed 0x200 0x00EE (withCalls [0x1000#16] State.reset)).stack.getD 0 0#16 = 0x1000#16 := by decide
theorem witness_ReturnPopsOrUnderflows_call :
    ∃ t, exec (.call 0x300#12) { State.reset with pc := 0x202#16 } = .next t ∧ (t.sp == 1) = true :=
  next_of_okWith _ (by decide)
theorem witness_JumpSetsPc :
    (placed 0x202 0x1202 State.reset).atInstr (.jp 0x202#12) ∧ (0x202#12).toNat = (placed 0x202 0x1202 State.reset).pc.toNat ∧
      ∃ t, step (placed 0x202 0x1202 State.reset) = .next t ∧ (t.pc == 0x202#16) = true :=
  ⟨by decide, by decide, next_of_okWith _ (by decide)⟩
theorem witness_CallPushesOrOverflows :
    (withCalls (List.replicate 16 0x202#16) State.reset).sp.val = 16 ∧
      (withCalls (List.replicate 15 0x202#16) State.reset).sp.val < 16 := by decide
theorem witness_ReturnComesBackAfterCall :
    (∃ t, exec (.call 0x300#12) (withCalls (List.replicate 15 0x202#16) { State.reset with pc := 0x1000#16 }) = .next t ∧
      (t.sp == 16) = true) ∧ Instr.cls ≠ .ret ∧ ∀ n, Instr.cls ≠ .call n :=
  ⟨next_of_okWith _ (by decide), nofun, nofun⟩
theorem witness_IndexedJumpAddsV0 :
    State.reset.reg 0#4 = 0#8 ∧ (placed 0x200 0xBFF8 (withRegs [(0, 8)] State.reset)).atInstr (.jpV0 0xFF8#12) ∧
      0xFFF < (0xFF8#12).toNat + ((placed 0x200 0xBFF8 (withRegs [(0, 8)] State.reset)).reg 0#4).toNat := by decide

theorem witness_SkipOnImmediate : State.reset.reg 15#4 = 0#8 ∧ State.reset.reg 15#4 ≠ 1#8 := by decide
theorem witness_SkipOnRegisters :
    State.reset.reg 1#4 = State.reset.reg 2#4 ∧ (withRegs [(2, 8)] State.reset).reg 1#4 ≠ (withRegs [(2, 8)] State.reset).reg 2#4 ∧
      0xF#4 ≠ 0#4 := by decide
theorem witness_SkipOnKey :
    (15 : Fin 16).val = ((withRegs [(5, 0xFF)] State.reset).reg 5#4).toNat % 16 ∧ State.reset.keys[(15 : Fin 16)] = false ∧
      (withKeys [15] (withRegs [(5, 0xFF)] State.reset)).keys[(15 : Fin 16)] = true := by decide
theorem witness_SkipNearTopFaults :
    (placed 0xFFC 0x3000 State.reset).atInstr (.seImm 0#4 0#8) ∧
      (placed 0xFFC 0x3000 State.reset).skipCondition (.seImm 0#4 0#8) = some true ∧ 0xFFC ≤ (placed 0xFFC 0x3000 State.reset).pc.toNat ∧
      (placed 0xFFE 0xE09E State.reset).atInstr (.skp 0#4) ∧ (placed 0xFFE 0xE09E State.reset).skipCondition (.skp 0#4) = some false := by
  decide

theorem witness_AddSetsCarry :
    1#4 ≠ 0xF#4 ∧ 255 < ((withRegs [(1, 255), (2, 1)] State.reset).reg 1#4).toNat + ((withRegs [(1, 255), (2, 1)] State.reset).reg 2#4).toNat ∧
      ((withRegs [(1, 254), (2, 1)] State.reset).reg 1#4).toNat + ((withRegs [(1, 254), (2, 1)] State.reset).reg 2#4).toNat ≤ 255 := by decide
theorem witness_SubtractionsSetNoBorrow :
    1#4 ≠ 0xF#4 ∧ (State.reset.reg 2#4).toNat ≤ (State.reset.reg 1#4).toNat ∧
      ((withRegs [(2, 1)] State.reset).reg 1#4).toNat < ((withRegs [(2, 1)] State.reset).reg 2#4).toNat := by decide
theorem witness_ShiftsSetBitShiftedOut : (0xE : Reg) ≠ 0xF#4 := by decide
theorem witness_RandomIsMasked : (0 : Byte) = 0#8 ∧ (255 : Byte) = 0xFF#8 := by decide
theorem witness_OnlyFlagFormsWriteVF :
    (∃ t, exec (.addReg 15#4 15#4) State.reset = .next t ∧ (t.reg 15#4 == 0#8) = true) ∧ writesFlag (.addReg 15#4 15#4) = true ∧
      (∃ t, exec (.ldVxMem 14#4) State.reset = .next t ∧ (t.reg 15#4 == 0#8) = true) ∧ writesFlag (.ldVxMem 14#4) = false ∧
      destination (.ldVxMem 14#4) ≠ some 0xF#4 :=
  ⟨next_of_okWith _ (by decide), rfl, next_of_okWith _ (by decide), rfl, by decide⟩

theorem witness_DecimalDigitsWritten : (0xFFD#16).toNat + 3 ≤ 4096 ∧ 4096 < (0xFFE#16).toNat + 3 := by decide
theorem witness_BlockStoreWritesRegisters :
    (0xFF0#16).toNat + ((0xF#4).toNat + 1) ≤ 4096 ∧ 4096 < (0xFF1#16).toNat + ((0xF#4).toNat + 1) := by decide
theorem witness_BlockLoadReadsMemory :
    (0xFFF#16).toNat + ((0x0#4).toNat + 1) ≤ 4096 ∧ 4096 < (0x1000#16).toNat + ((0x0#4).toNat + 1) := by decide
theorem witness_StoreIsSeenByTheNextFetch :
    1 ≤ (1#4).toNat ∧ ({ State.reset with index := 0xFFD#16, pc := 0xFFD#16 } : State).index = 0xFFD#16 ∧
      (∃ t, exec (.ldMemVx 1#4) { State.reset with index := 0xFFD#16, pc := 0xFFD#16 } = .next t ∧ (t.pc == 0xFFD#16) = true) ∧
      (∃ t, exec (.ldB 1#4) { State.reset with index := 0xFFD#16, pc := 0xFFD#16 } = .next t ∧ (t.pc == 0xFFD#16) = true) :=
  ⟨by decide, rfl, next_of_okWith _ (by decide), next_of_okWith _ (by decide)⟩

/-- A state whose `I` points at one byte 0x80, the last of memory: a sprite of one pixel. -/
def dotAt : State := withBytes 0xFFF [0x80#8] { State.reset with index := 0xFFF#16 }

theorem dotAt_covers : dotAt.spriteCovers 0#4 0#4 1#4 (0, 0) := ⟨0, by decide, 0, by decide, by decide, by decide, by decide⟩

theorem witness_DrawTogglesTheSprite :
    (0xFF1#16).toNat + (0xF#4).toNat ≤ 4096 ∧ 0xF#4 ≠ 0#4 ∧ 4096 < (0xFF2#16).toNat + (0xF#4).toNat ∧
      (withLit [(0, 0)] dotAt).fb.get (0, 0) = true ∧ (∀ p, dotAt.fb.get p = false) ∧ dotAt.spriteCovers 0#4 0#4 1#4 (0, 0) := by
  refine ⟨by decide, by decide, by decide, by decide, fun p => ?_, dotAt_covers⟩
  simp [dotAt, withBytes, State.reset, Screen.get]

theorem witness_DrawingTwiceRestores :
    1#4 ≠ 0xF#4 ∧ (∃ p, dotAt.spriteCovers 0#4 0#4 1#4 p) ∧ (∀ p, dotAt.spriteCovers 0#4 0#4 1#4 p → dotAt.fb.get p = false) ∧
      ∃ t u, exec (.drw 0#4 0#4 1#4) dotAt = .next t ∧ exec (.drw 0#4 0#4 1#4) t = .next u := by
  refine ⟨by decide, ⟨_, dotAt_covers⟩, fun p _ => witness_DrawTogglesTheSprite.2.2.2.2.1 p, ?_⟩
  exact ⟨_, _, rfl, rfl⟩
/-- The counterexample to R216's first sentence read literally (log entry 27): the sprite's pixel was lit before. -/
theorem test_second_draw_without_collision :
    okWith (exec (.drw 0#4 0#4 1#4) (withLit [(0, 0)] dotAt))
      (fun t => t.reg 15#4 == 1#8 && okWith (exec (.drw 0#4 0#4 1#4) t) (fun u => u.reg 15#4 == 0#8)) = true := by decide
theorem witness_SecondDrawAlwaysCollides :
    0#4 ≠ 0xF#4 ∧ (∃ p, dotAt.spriteCovers 0#4 0#4 1#4 p) ∧
      ∃ t u, exec (.drw 0#4 0#4 1#4) dotAt = .next t ∧ exec (.drw 0#4 0#4 1#4) t = .next u :=
  ⟨by decide, ⟨_, dotAt_covers⟩, _, _, rfl, rfl⟩

theorem witness_TimerFormsMoveOneTimer :
    (placed 0xFFD 0xF307 State.reset).pc.toNat < 0xFFE ∧ (placed 0xFFD 0xF307 State.reset).atInstr (.ldVxDt 3#4) ∧
      (placed 0xFFD 0xF315 State.reset).atInstr (.ldDtVx 3#4) ∧ (placed 0xFFD 0xF318 State.reset).atInstr (.ldStVx 3#4) := by decide
theorem witness_KeyWaitTakesLowestKeyOrRewinds :
    (withKeys [15] State.reset).keys[(15 : Fin 16)] = true ∧ (∀ j : Fin 16, j < 15 → (withKeys [15] State.reset).keys[j] = false) ∧
      (∀ j : Fin 16, (placed 0xFFE 0xF30A State.reset).keys[j] = false) ∧ (placed 0xFFE 0xF30A State.reset).atInstr (.ldVxK 3#4) := by decide

theorem witness_OnlyNamedFormsWrite :
    (∃ t, exec .cls State.reset = .next t ∧ (t.pc == 0x200#16) = true) ∧ (∀ n, Instr.cls ≠ .ldI n) ∧ (∀ x, Instr.cls ≠ .ldDtVx x) ∧
      (∀ x, Instr.cls ≠ .ldMemVx x) ∧ (∀ n, Instr.cls ≠ .call n) ∧ Instr.cls ≠ .ret ∧ writesPc .cls = false :=
  ⟨next_of_okWith _ (by decide), nofun, nofun, nofun, nofun, nofun, rfl⟩
/-- The register clause at its boundaries: V15 under a block load up to V14, V14 under a draw. -/
theorem witness_OnlyNamedFormsWrite_registers :
    destination (.ldVxMem 14#4) ≠ some 15#4 ∧ (∀ x : Reg, Instr.ldVxMem 14#4 = .ldVxMem x → x.toNat < (15#4).toNat) ∧
      writesFlag (.drw 0#4 0#4 1#4) = true ∧ 14#4 ≠ 0xF#4 ∧ destination (.drw 0#4 0#4 1#4) ≠ some 14#4 ∧
      (∃ t, exec (.ldVxMem 14#4) State.reset = .next t ∧ (t.reg 15#4 == 0#8) = true) := by
  refine ⟨by decide, fun x h => ?_, rfl, by decide, by decide, next_of_okWith _ (by decide)⟩
  cases h
  decide
theorem witness_OnlyFourFormsTouchMemory : accessesMemory (.ldF 15#4) = false := rfl
theorem witness_InputsReadByNamedFormsOnly :
    readsKeys (.rnd 0#4 0#8) = false ∧ (∀ x nn, Instr.skp 0#4 ≠ .rnd x nn) ∧
      ∃ t, exec (.skp 0#4) State.reset = .next t ∧ (t.pc == 0x200#16) = true :=
  ⟨rfl, nofun, next_of_okWith _ (by decide)⟩

end Sys2Proof.Tests
end

section
/-!
PROOF. The flag register (10_state R21): the six flag-writing forms leave a flag in VF, and every other form writes it only by naming
it as its destination, by which registers an instruction writes at all.
-/

namespace Sys2Proof.Machine

/-! ### Flags -/

theorem flagByte_eq_zero_or_one (c : Bool) : flagByte c = 0#8 ∨ flagByte c = 1#8 := by
  cases c
  · exact .inl rfl
  · exact .inr rfl

/-- VF ends holding the flag, also when the destination is VF (10_state R23). -/
@[simp] theorem State.reg_setRegFlag_regF (s : State) (x : Reg) (b c : Byte) : (s.setRegFlag x b c).reg regF = c := by
  simp [State.reg_setRegFlag]

theorem State.reg_setRegFlag_other (s : State) {x r : Reg} (hx : r ≠ x) (hF : r ≠ regF) (b c : Byte) :
    (s.setRegFlag x b c).reg r = s.reg r := by
  simp [State.reg_setRegFlag, hx, hF]

@[simp] theorem State.reg_drawSprite_regF (s : State) (ps : List Pixel) :
    (s.drawSprite ps).reg regF = collisionFlag (s.fb.draw ps).2 := by
  simp [State.reg_drawSprite]

theorem State.reg_drawSprite_other (s : State) {r : Reg} (hF : r ≠ regF) (ps : List Pixel) :
    (s.drawSprite ps).reg r = s.reg r := by
  simp [State.reg_drawSprite, hF]

/-- The block load leaves the registers above its last one as they were (44_index_memory R197). -/
theorem State.reg_loadBlock_above (s : State) {x r : Reg} (h : x.toNat < r.toNat) : (s.loadBlock x).reg r = s.reg r := by
  simp [State.reg_loadBlock, h]

/-! ### What an instruction does to the registers -/

/-- A flag-writing form leaves one of the two flag bytes in VF (10_state R21). -/
theorem exec_regF_of_writesFlag {i : Instr} {s t : State} (h : exec i s = .next t) (hw : writesFlag i = true) :
    ∃ c, t.reg regF = flagByte c := by
  have flag : ∀ (x : Reg) (b : Byte) (c : Bool), ∃ c', (s.setRegFlag x b (flagByte c)).reg regF = flagByte c' :=
    fun x b c => ⟨c, State.reg_setRegFlag_regF s x b (flagByte c)⟩
  cases i with
  | addReg x y | sub x y | shr x | subn x y | shl x =>
    cases h
    exact flag _ _ _
  | drw x y n =>
    obtain ⟨-, rfl⟩ := execDrw_next h
    exact ⟨_, State.reg_drawSprite_regF _ _⟩
  | _ => cases hw

/-- A register keeps its value when it is not the destination, not loaded by a block load up to the destination, and not VF under a
flag-writing form (10_state R21, 44_index_memory R197). -/
theorem exec_reg_unchanged {i : Instr} {s t : State} (h : exec i s = .next t) {r : Reg} (hd : destination i ≠ some r)
    (hblock : ∀ x, i = .ldVxMem x → x.toNat < r.toNat) (hflag : writesFlag i = true → r ≠ regF) :
    t.reg r = s.reg r := by
  have ne : ∀ {x : Reg}, some x ≠ some r → r ≠ x := fun hx e => hx (congrArg some e.symm)
  cases i with
  | ldImm | addImm | ldReg | orReg | andReg | xorReg | rnd | ldVxDt =>
    cases h
    exact State.reg_setReg_other s (ne hd) _
  | addReg | sub | shr | subn | shl =>
    cases h
    exact State.reg_setRegFlag_other s (ne hd) (hflag rfl) _ _
  | drw =>
    obtain ⟨-, rfl⟩ := execDrw_next h
    exact State.reg_drawSprite_other s (hflag rfl) _
  | ldVxMem x =>
    obtain ⟨-, rfl⟩ := execLdVxMem_next h
    exact State.reg_loadBlock_above s (hblock x rfl)
  | ldVxK x =>
    obtain ⟨k, -, rfl⟩ | ⟨-, rfl⟩ := execLdVxK_next h
    · exact State.reg_setReg_other s (ne hd) _
    · exact State.setPc_reg s _ r
  | ret =>
    obtain ⟨-, rfl⟩ := execRet_next h
    rfl
  | call =>
    obtain ⟨-, rfl⟩ := execCall_next h
    rfl
  | ldB =>
    obtain ⟨-, rfl⟩ := execLdB_next h
    rfl
  | ldMemVx =>
    obtain ⟨-, rfl⟩ := execLdMemVx_next h
    rfl
  | seImm | sneImm | seReg | sneReg | skp | sknp =>
    cases h
    exact State.skipIf_reg s _ r
  | cls | sys | jp | jpV0 | ldI | addI | ldF | ldDtVx | ldStVx =>
    cases h
    rfl

/-- VF is the last register, so a block load whose last register is another one stops below it (44_index_memory R195). -/
theorem toNat_lt_regF {x : Reg} (h : x ≠ regF) : x.toNat < regF.toNat := by
  have hne : x.toNat ≠ 15 := fun e => h (BitVec.eq_of_toNat_eq e)
  have hlt := x.isLt
  show x.toNat < 15
  omega

/-- Settles O44: a flag-writing form leaves a flag byte in VF, and VF is one of the registers that a form with another destination
leaves as they were, the block loads up to VE included. -/
theorem onlyFlagFormsWriteVF : Obligations.OnlyFlagFormsWriteVF := by
  intro i s t h
  refine ⟨fun hw => ?_, fun hw hd => ?_⟩
  · obtain ⟨c, hc⟩ := exec_regF_of_writesFlag h hw
    have hF : t.reg 0xF#4 = flagByte c := hc
    rw [hF]
    exact flagByte_eq_zero_or_one c
  · refine exec_reg_unchanged h hd (fun x hi => ?_) (fun hw' => ?_)
    · subst hi
      exact toNat_lt_regF fun hx => hd (congrArg some hx)
    · rw [hw] at hw'
      cases hw'

end Sys2Proof.Machine
end

section
/-!
PROOF. Which bits of a word the decoder ignores (30_encoding R76): a word is the word of its own fields, every branch of the decoder but
SHR and SHL reads or matches all of them, and so the encoder gives the decoded word back.
-/

namespace Sys2Proof

/-! ### A word is packed from its fields (30_encoding R70) -/

/-- A word whose group is `g`, in the shape `G NNN`. -/
theorem packNNN_fields {w : Word} {g : Nibble} (hg : (fieldG w).toNat = g.toNat) : packNNN g (fieldNNN w) = w := by
  apply BitVec.eq_of_toNat_eq
  have := w.isLt
  rw [packNNN_toNat, ← hg]
  simp only [fieldG, fieldNNN, BitVec.extractLsb'_toNat, Nat.shiftRight_eq_div_pow]
  omega

/-- A word whose group is `g` and whose low byte is `nn`, in the shape `G X NN`. -/
theorem packXNN_fields {w : Word} {g : Nibble} {nn : Byte} (hg : (fieldG w).toNat = g.toNat)
    (hnn : (fieldNN w).toNat = nn.toNat) : packXNN g (fieldX w) nn = w := by
  apply BitVec.eq_of_toNat_eq
  have := w.isLt
  rw [packXNN_toNat, ← hg, ← hnn]
  simp only [fieldG, fieldX, fieldNN, BitVec.extractLsb'_toNat, Nat.shiftRight_eq_div_pow]
  omega

/-- A word whose group is `g` and whose low nibble is `n`, in the shape `G X Y N`. -/
theorem packXYN_fields {w : Word} {g n : Nibble} (hg : (fieldG w).toNat = g.toNat)
    (hn : (fieldN w).toNat = n.toNat) : packXYN g (fieldX w) (fieldY w) n = w := by
  apply BitVec.eq_of_toNat_eq
  have := w.isLt
  rw [packXYN_toNat, ← hg, ← hn]
  simp only [fieldG, fieldX, fieldY, fieldN, BitVec.extractLsb'_toNat, Nat.shiftRight_eq_div_pow]
  omega

/-! ### The encoder gives a decoded word back, group by group (30_encoding R73, R74) -/

theorem encode_of_decodeGroup0 {mode : SysMode} {w : Word} {i : Instr} (hg : (fieldG w).toNat = 0x0)
    (h : decodeGroup0 mode w = .instr i) : encode i = w := by
  unfold decodeGroup0 at h
  split at h
  · next hw =>
    cases h
    exact hw.symm
  · split at h
    · next hw =>
      cases h
      exact hw.symm
    · cases mode with
      | nop =>
        cases h
        exact packNNN_fields hg
      | invalid => cases h

/-- Group 8, but for the two shifts, which do not hold `Y`. -/
theorem encode_of_decodeGroup8 {w : Word} {i : Instr} (hg : (fieldG w).toNat = 0x8) (h : decodeGroup8 w = .instr i)
    (hr : ∀ x, i ≠ .shr x) (hl : ∀ x, i ≠ .shl x) : encode i = w := by
  unfold decodeGroup8 at h
  split at h <;> cases h
  case h_7 => exact absurd rfl (hr _)
  case h_9 => exact absurd rfl (hl _)
  all_goals exact packXYN_fields hg ‹_›

theorem encode_of_decodeGroupE {w : Word} {i : Instr} (hg : (fieldG w).toNat = 0xE) (h : decodeGroupE w = .instr i) :
    encode i = w := by
  unfold decodeGroupE at h
  split at h <;> cases h
  all_goals exact packXNN_fields hg ‹_›

theorem encode_of_decodeGroupF {w : Word} {i : Instr} (hg : (fieldG w).toNat = 0xF) (h : decodeGroupF w = .instr i) :
    encode i = w := by
  unfold decodeGroupF at h
  split at h <;> cases h
  all_goals exact packXNN_fields hg ‹_›

/-- Groups 5 and 9 decode only where the low nibble is 0 (30_encoding R74). -/
theorem decodeNibbleZero_instr {w : Word} {i j : Instr}
    (h : (if fieldN w = 0#4 then Decoded.instr j else .invalid w) = .instr i) : j = i ∧ (fieldN w).toNat = 0 := by
  split at h
  · next hn =>
    cases h
    exact ⟨rfl, congrArg BitVec.toNat hn⟩
  · cases h

/-- The encoder gives back the word of every decoded instruction but SHR and SHL (30_encoding R76). -/
theorem encode_of_decodeWith {mode : SysMode} {w : Word} {i : Instr} (h : decodeWith mode w = .instr i)
    (hr : ∀ x, i ≠ .shr x) (hl : ∀ x, i ≠ .shl x) : encode i = w := by
  unfold decodeWith at h
  split at h
  case h_1 hg => exact encode_of_decodeGroup0 hg h
  case h_9 hg => exact encode_of_decodeGroup8 hg h hr hl
  case h_15 hg => exact encode_of_decodeGroupE hg h
  case h_16 hg => exact encode_of_decodeGroupF hg h
  case h_2 hg | h_3 hg | h_11 hg | h_12 hg =>
    cases h
    exact packNNN_fields hg
  case h_4 hg | h_5 hg | h_7 hg | h_8 hg | h_13 hg =>
    cases h
    exact packXNN_fields hg rfl
  case h_6 hg | h_10 hg =>
    obtain ⟨rfl, hn⟩ := decodeNibbleZero_instr h
    exact packXYN_fields hg hn
  case h_14 hg =>
    cases h
    exact packXYN_fields hg rfl
  case h_17 => cases h

/-! ### The two shifts -/

/-- In group 8 with the low nibble of SHR, only `X` decides the instruction. -/
theorem decode_packXYN_shr (x y : Reg) : decode (packXYN 0x8#4 x y 0x6#4) = .instr (.shr x) := by
  simp [decode, decodeWith, decodeGroup8]

/-- In group 8 with the low nibble of SHL, only `X` decides the instruction. -/
theorem decode_packXYN_shl (x y : Reg) : decode (packXYN 0x8#4 x y 0xE#4) = .instr (.shl x) := by
  simp [decode, decodeWith, decodeGroup8]

end Sys2Proof

namespace Sys2Proof.Machine

/-- Settles O5: SYS does not read its operand, the shifts decode from `X` alone, and any other decoded word is the encoding of its
instruction, which two words cannot share. -/
theorem onlySysAndShiftsIgnoreBits : Obligations.OnlySysAndShiftsIgnoreBits := by
  refine ⟨fun _ _ _ => rfl, fun x y z => ?_, fun x y z => ?_, fun w w' i h h' hr hl => ?_⟩
  · rw [decode_packXYN_shr, decode_packXYN_shr]
  · rw [decode_packXYN_shl, decode_packXYN_shl]
  · exact (encode_of_decodeWith h hr hl).symm.trans (encode_of_decodeWith h' hr hl)

end Sys2Proof.Machine
end

section
/-!
PROOF. The fault of an `Invalid` word (30_encoding R78): the decoder's `Invalid` carries the word it was given, and the cycle raises
it with the address of the fetch.
-/

namespace Sys2Proof

/-! ### `Invalid` carries the raw word (30_encoding R75) -/

theorem decodeGroup0_invalid {mode : SysMode} {w v : Word} (h : decodeGroup0 mode w = .invalid v) : v = w := by
  unfold decodeGroup0 at h
  split at h
  · cases h
  · split at h
    · cases h
    · cases mode with
      | nop => cases h
      | invalid =>
        cases h
        rfl

theorem decodeGroup8_invalid {w v : Word} (h : decodeGroup8 w = .invalid v) : v = w := by
  unfold decodeGroup8 at h
  split at h <;> cases h
  rfl

theorem decodeGroupE_invalid {w v : Word} (h : decodeGroupE w = .invalid v) : v = w := by
  unfold decodeGroupE at h
  split at h <;> cases h
  rfl

theorem decodeGroupF_invalid {w v : Word} (h : decodeGroupF w = .invalid v) : v = w := by
  unfold decodeGroupF at h
  split at h <;> cases h
  rfl

/-- The decoder's other answer is the word itself, under either `SYS_MODE` (30_encoding R75). -/
theorem decodeWith_invalid {mode : SysMode} {w v : Word} (h : decodeWith mode w = .invalid v) : v = w := by
  unfold decodeWith at h
  split at h
  case h_1 => exact decodeGroup0_invalid h
  case h_9 => exact decodeGroup8_invalid h
  case h_15 => exact decodeGroupE_invalid h
  case h_16 => exact decodeGroupF_invalid h
  case h_6 | h_10 =>
    split at h <;> cases h
    rfl
  case h_17 =>
    cases h
    rfl
  all_goals cases h

end Sys2Proof

namespace Sys2Proof.Machine

/-- Settles O15: the inputs that arrive change neither the pc nor memory, so the step is the cycle of that word. -/
theorem invalidWordFaults : Obligations.InvalidWordFaults := by
  intro s w hpc hd
  obtain rfl := decodeWith_invalid hd
  have hin : s.pc.toNat + 2 ≤ 4096 := by omega
  exact ⟨cycle_of_invalid (s := s.arrive) hin hd, rfl⟩

end Sys2Proof.Machine
end

section
/-!
PROOF. The cycle (40_cycle): what the fetch reads or faults with, the whole of the `Step` pseudocode, and the countdown of the timers.
-/

namespace Sys2Proof.Machine

/-! ### The fetch (40_cycle R101) -/

/-- A word of which a byte lies outside memory is not fetched. -/
theorem fetch_outside {s : State} (h : 4096 < s.pc.toNat + 2) : s.fetch = none := by
  unfold State.fetch
  rw [if_neg fun hr => absurd ((inRange_pos (by omega)).1 hr) (by omega)]

/-- A cycle whose fetch reaches outside memory ends with the fetch's fault, before anything is decoded. -/
theorem cycle_of_fetch_outside {s : State} (h : 4096 < s.pc.toNat + 2) :
    cycle s = .fault (.memoryOutOfRange (max s.pc.toNat 4096) none s.pc) := by
  unfold cycle
  rw [fetch_outside h]
  rfl

/-- Settles O14: the inputs that arrive leave the pc where it was, so the step is the cycle whose fetch faults; below 0xFFF the word is
the two bytes joined. -/
theorem fetchReadsWordOrFaults : Obligations.FetchReadsWordOrFaults := by
  intro s
  refine ⟨fun hpc => ?_, fun hpc => ?_⟩
  · have hout : 4096 < s.arrive.pc.toNat + 2 := by
      rw [State.arrive_pc]
      omega
    exact cycle_of_fetch_outside hout
  · exact fetch_inside (by omega)

/-! ### The whole cycle (40_cycle R100) -/

/-- The state an instruction runs on: the arguments in place, the pc one instruction further (40_cycle R103). -/
theorem advance_withInput (s : State) (k : Input) :
    (s.withInput k).advance = { s with keys := k.keys, rand := k.rand, pc := s.pc + 2#16 } := rfl

/-- The countdown in the pseudocode's spelling: the decrement stands under the test for nonzero. -/
theorem countDown_eq_ite (t : Byte) : countDown t = if t ≠ 0#8 then t - 1#8 else t := (ite_not ..).symm

/-- Settles O11, along the pseudocode: the fetch check, the decoder's two answers, and for an instruction the three outcomes of `exec`,
a next state split by the pc check. -/
theorem cycleFollowsThePseudocode : Obligations.CycleFollowsThePseudocode := by
  intro s k
  by_cases hpc : 4096 < s.pc.toNat + 2
  · rw [if_pos hpc]
    exact cycle_of_fetch_outside (s := s.withInput k) hpc
  · rw [if_neg hpc]
    have hin : (s.withInput k).pc.toNat + 2 ≤ 4096 := Nat.le_of_not_lt hpc
    cases hd : decode s.wordAt with
    | invalid v =>
      obtain rfl := decodeWith_invalid hd
      exact cycle_of_invalid hin hd
    | instr i =>
      rw [cycle_of_decode hin hd, advance_withInput]
      dsimp only
      cases exec i { s with keys := k.keys, rand := k.rand, pc := s.pc + 2#16 } with
      | next t =>
        by_cases ht : 0xFFF < t.pc.toNat
        · simp only [if_pos ht]
          exact endCycle_outside ht
        · simp only [if_neg ht, ← countDown_eq_ite]
          exact endCycle_inside (Nat.le_of_not_lt ht)
      | fault f => rfl
      | refused r => rfl

/-! ### The countdown (40_cycle R106) -/

/-- The countdown changes the two timers and nothing else. -/
theorem countTimers_onlyChanges (s : State) : onlyChanges [.dt, .st] s s.countTimers := by
  intro f hf
  cases f with
  | dt | st => exact absurd (by simp) hf
  | pendingInputs => exact ⟨rfl, rfl⟩
  | _ => rfl

/-- Settles O16: a cycle's next state is the counted-down state of its instruction, and a countdown stops at zero. -/
theorem timersCountDownOncePerCycle : Obligations.TimersCountDownOncePerCycle := by
  intro s t h
  obtain ⟨i, u, hin, hd, hu, hpc, rfl⟩ := cycle_next h
  have hat : s.atInstr i := ⟨by omega, hd⟩
  exact ⟨i, u, hat, hu, by omega, countDown_toNat u.dt, countDown_toNat u.st, countTimers_onlyChanges u⟩

end Sys2Proof.Machine
end

section
/-!
PROOF. Frames (Safety.lean): what each operation of the flow instructions leaves unchanged, and how frames compose.
-/

namespace Sys2Proof.Machine

theorem Field.same_trans {s t u : State} {f : Field} (hst : f.same s t) (htu : f.same t u) : f.same s u := by
  cases f with
  | pendingInputs => exact ⟨htu.1.trans hst.1, htu.2.trans hst.2⟩
  | _ => exact Eq.trans htu hst

/-- What two changes in a row may change is what either of them may. -/
theorem onlyChanges_trans {fs gs : List Field} {s t u : State} (hst : onlyChanges fs s t) (htu : onlyChanges gs t u) :
    onlyChanges (fs ++ gs) s u := fun f hf =>
  Field.same_trans (hst f fun h => hf (List.mem_append_left gs h)) (htu f fun h => hf (List.mem_append_right fs h))

theorem setPc_onlyChanges (s : State) (w : Word) : onlyChanges [.pc] s (s.setPc w) := by
  intro f hf
  cases f with
  | pc => exact absurd (by simp) hf
  | pendingInputs => exact ⟨rfl, rfl⟩
  | _ => rfl

/-- A pop leaves every entry where it is (10_state R28). -/
theorem pop_onlyChanges (s : State) : onlyChanges [.sp] s s.pop := by
  intro f hf
  cases f with
  | sp => exact absurd (by simp) hf
  | pendingInputs => exact ⟨rfl, rfl⟩
  | _ => rfl

/-- A push writes the one entry that SP names (10_state R28). -/
theorem push_onlyChanges {s : State} (h : s.sp.val < 16) (w : Word) :
    onlyChanges [.sp, .stackEntry ⟨s.sp.val, h⟩] s (s.push w) := by
  intro f hf
  cases f with
  | sp => exact absurd (by simp) hf
  | stackEntry k =>
    have hk : s.sp.val ≠ k.val := fun e => hf (by simp [e])
    exact Vector.getElem_setIfInBounds_ne k.isLt hk
  | pendingInputs => exact ⟨rfl, rfl⟩
  | _ => rfl

end Sys2Proof.Machine
end

section
/-!
PROOF. A cycle at a decoded instruction whose next state passes or fails the pc check (40_cycle R106, R108).
-/

namespace Sys2Proof.Machine

theorem cycle_of_atInstr {s : State} {i : Instr} (h : s.atInstr i) :
    cycle s = endCycle s.wordAt s.pc (exec i s.advance) := by
  obtain ⟨hpc, hd⟩ := h
  exact cycle_of_decode (by omega) hd

theorem cycle_inside {s u : State} {i : Instr} (h : s.atInstr i) (he : exec i s.advance = .next u)
    (hu : u.pc.toNat ≤ 0xFFF) : cycle s = .next u.countTimers := by
  rw [cycle_of_atInstr h, he, endCycle_inside hu]

theorem cycle_outside {s u : State} {i : Instr} (h : s.atInstr i) (he : exec i s.advance = .next u)
    (hu : 0xFFF < u.pc.toNat) : cycle s = .fault (.memoryOutOfRange u.pc.toNat (some s.wordAt) s.pc) := by
  rw [cycle_of_atInstr h, he, endCycle_outside hu]

/-- A step whose instruction leaves the pc outside memory: the inputs that arrive change neither the word nor the pc. -/
theorem step_outside {s u : State} {i : Instr} (h : s.atInstr i) (he : exec i s.arrive.advance = .next u)
    (hu : 0xFFF < u.pc.toNat) : step s = .fault (.memoryOutOfRange u.pc.toNat (some s.wordAt) s.pc) :=
  cycle_outside (s := s.arrive) h he hu

/-- Where a fetch is possible the advance does not wrap (40_cycle R103). -/
theorem advance_pc_toNat {s : State} (h : s.pc.toNat ≤ 0xFFE) : s.advance.pc.toNat = s.pc.toNat + 2 := by
  rw [State.advance_pc, instrBytes, BitVec.toNat_add]
  show (s.pc.toNat + 2) % 65536 = _
  omega

/-- The instruction at the pc is decided by memory and the pc. -/
theorem atInstr_of_same {s t : State} {i : Instr} (h : s.atInstr i) (hpc : t.pc = s.pc) (hmem : t.mem = s.mem) :
    t.atInstr i := by
  simpa only [State.atInstr, State.wordAt, hpc, hmem] using h

/-- The address operand is the 12-bit address itself (30_encoding R72). -/
@[simp] theorem addrOperand_toNat (n : Addr12) : (addrOperand n).toNat = n.toNat :=
  BitVec.toNat_setWidth_of_le (by decide)

end Sys2Proof.Machine
end

section
/-!
PROOF. SYS (41_flow_and_stack R120): its words under both readings of `SYS_MODE`, and its cycle.
-/

namespace Sys2Proof

theorem packNNN_ne {n m : Addr12} (g : Nibble) (h : n ≠ m) : packNNN g n ≠ packNNN g m := fun e =>
  h (by simpa using congrArg fieldNNN e)

/-- A group-0 word that is neither CLS nor RET is left to `SYS_MODE` (30_encoding R74). -/
theorem decodeWith_packNNN_zero {n : Addr12} (hcls : n ≠ 0x0E0#12) (hret : n ≠ 0x0EE#12) :
    decodeWith .nop (packNNN 0x0#4 n) = .instr (.sys n) ∧
      decodeWith .invalid (packNNN 0x0#4 n) = .invalid (packNNN 0x0#4 n) := by
  have h1 : packNNN 0x0#4 n ≠ 0x00E0#16 := packNNN_ne 0x0#4 hcls
  have h2 : packNNN 0x0#4 n ≠ 0x00EE#16 := packNNN_ne 0x0#4 hret
  simp [decodeWith, decodeGroup0, h1, h2]

end Sys2Proof

namespace Sys2Proof.Machine

/-- Settles O27: SYS answers the state it runs on, so its cycle is the advance, the pc check and the countdown. -/
theorem sysIsANoOp : Obligations.SysIsANoOp := by
  refine ⟨fun _ _ => rfl, by decide, fun n => decodeWith_packNNN_zero, fun n s hat => ?_⟩
  have hpc := advance_pc_toNat hat.1
  refine ⟨fun htop => ?_, fun hlow => ?_⟩
  · have hout : s.arrive.advance.pc.toNat = 0x1000 := hpc.trans (by omega)
    rw [step_outside hat rfl (by omega), hout]
  · exact ⟨s.advance.countTimers, cycle_inside hat rfl (by omega), hpc, countDown_toNat s.dt, countDown_toNat s.st,
      onlyChanges_trans (setPc_onlyChanges s _) (countTimers_onlyChanges s.advance)⟩

end Sys2Proof.Machine
end

section
/-!
PROOF. CALL and RET (41_flow_and_stack R121, R124): each either raises its one fault or does its effect, decided by SP.
-/

namespace Sys2Proof.Machine

theorem exec_ret_empty {s : State} (h : s.sp.val = 0) :
    exec .ret s = .fault (.stackUnderflow 0x00EE#16 (s.pc - 2#16)) := if_pos h

theorem exec_ret_nonempty {s : State} (h : s.sp.val ≠ 0) : exec .ret s = .next (s.setPc s.stackTop).pop := if_neg h

theorem exec_call_full {s : State} (n : Addr12) (h : s.sp.val = 16) :
    exec (.call n) s = .fault (.stackOverflow (packNNN 0x2#4 n) (s.pc - 2#16)) := if_pos h

theorem exec_call_free {s : State} (n : Addr12) (h : s.sp.val < 16) :
    exec (.call n) s = .next ((s.push s.pc).setPc (addrOperand n)) := if_neg h.ne

/-- RET has one word, so the word at the pc is it (30_encoding R73). -/
theorem wordAt_of_ret {s : State} (h : s.atInstr .ret) : s.wordAt = 0x00EE#16 :=
  (encode_of_decodeWith h.2 nofun nofun).symm

/-- Settles O28: RET by whether the stack is empty; the top a CALL leaves is the word it pushed; a popped 0x1000 is outside memory. -/
theorem returnPopsOrUnderflows : Obligations.ReturnPopsOrUnderflows := by
  refine ⟨by decide, fun n s t h => ?_, fun s => exec_ret_empty, fun s hsp => ?_, fun s hat hsp htop => ?_⟩
  · obtain ⟨hfree, rfl⟩ := execCall_next h
    exact State.stackTop_push hfree s.pc
  · exact ⟨_, exec_ret_nonempty hsp, rfl, State.pop_sp_val _,
      onlyChanges_trans (setPc_onlyChanges s _) (pop_onlyChanges _)⟩
  · have hpop : (s.arrive.advance.setPc s.arrive.advance.stackTop).pop.pc = 0x1000#16 := htop
    rw [step_outside hat (exec_ret_nonempty hsp) (by rw [hpop]; decide), hpop, wordAt_of_ret hat]
    rfl

/-- Settles O30: CALL by whether the stack is full; the jump and the push change different pieces of state. -/
theorem callPushesOrOverflows : Obligations.CallPushesOrOverflows := by
  refine fun n s => ⟨by simp [decode, decodeWith], exec_call_full n, fun hsp => ?_⟩
  exact ⟨_, exec_call_free n hsp, Vector.getElem_setIfInBounds_self hsp, State.push_sp_val hsp s.pc,
    addrOperand_toNat n,
    onlyChanges_trans (setPc_onlyChanges s _) (push_onlyChanges (s := s.setPc (addrOperand n)) hsp s.pc)⟩

end Sys2Proof.Machine
end

section
/-!
PROOF. The jumps (41_flow_and_stack R122, R126): the pc they leave, and the jump to its own address, which every step finds again.
-/

namespace Sys2Proof.Machine

/-- A jump to its own address: the step completes, finds the same jump again, and counts the timers down (R122). -/
theorem step_selfJump {n : Addr12} {s : State} (hat : s.atInstr (.jp n)) (hself : n.toNat = s.pc.toNat) :
    ∃ t, step s = .next t ∧ t.atInstr (.jp n) ∧ t.pc = s.pc ∧ t.mem = s.mem ∧
      t.dt.toNat = s.dt.toNat - 1 ∧ t.st.toNat = s.st.toNat - 1 := by
  have hpc : addrOperand n = s.pc := BitVec.eq_of_toNat_eq ((addrOperand_toNat n).trans hself)
  have hin : (s.arrive.advance.setPc (addrOperand n)).pc.toNat ≤ 0xFFF := by
    rw [State.setPc_pc, hpc]
    exact hat.1.trans (by decide)
  exact ⟨_, cycle_inside (s := s.arrive) hat rfl hin, atInstr_of_same hat hpc rfl, hpc, rfl,
    countDown_toNat s.dt, countDown_toNat s.st⟩

/-- A jump to its own address runs for any number of steps (R122). -/
theorem runsOk_selfJump {n : Addr12} (k : Nat) {s : State} (hat : s.atInstr (.jp n)) (hself : n.toNat = s.pc.toNat) :
    s.runsOk k := by
  induction k generalizing s with
  | zero => trivial
  | succ k ih =>
    obtain ⟨t, ht, hat', hpc, -⟩ := step_selfJump hat hself
    exact ⟨t, ht, ih hat' (hself.trans (congrArg BitVec.toNat hpc.symm))⟩

/-- Settles O29: the pc is the 12-bit operand; at a self-jump by induction on the number of steps. -/
theorem jumpSetsPc : Obligations.JumpSetsPc := by
  refine ⟨fun n s => ⟨by simp [decode, decodeWith], ?_⟩, fun n s hat hself => ⟨fun k => ?_, fun t ht => ?_⟩⟩
  · have hpc : (s.setPc (addrOperand n)).pc.toNat = n.toNat := addrOperand_toNat n
    have := n.isLt
    exact ⟨_, rfl, hpc, by omega, setPc_onlyChanges s _⟩
  · exact runsOk_selfJump k hat hself
  · obtain ⟨u, hu, h⟩ := step_selfJump hat hself
    cases hu.symm.trans ht
    exact h

/-- The target of the indexed jump is the exact sum: a 12-bit and an 8-bit value add without wrapping in 16 bits (R126). -/
theorem indexedTarget_toNat (n : Addr12) (b : Byte) : (addrOperand n + b.zeroExtend 16).toNat = n.toNat + b.toNat := by
  have hn := n.isLt
  have hb := b.isLt
  have hw : (b.zeroExtend 16).toNat = b.toNat := BitVec.toNat_setWidth_of_le (by decide)
  rw [BitVec.toNat_add, addrOperand_toNat, hw]
  exact Nat.mod_eq_of_lt (by omega)

/-- Settles O32: the pc is the exact sum of the operand and V0, which the pc check compares with memory's size. -/
theorem indexedJumpAddsV0 : Obligations.IndexedJumpAddsV0 := by
  intro n s
  have hsum := indexedTarget_toNat n (s.reg 0#4)
  refine ⟨⟨by simp [decode, decodeWith], _, rfl, hsum, setPc_onlyChanges s _⟩, fun hzero => ?_, fun hat hout => ?_⟩
  · have htarget : addrOperand n + s.regWide regZero = addrOperand n := BitVec.eq_of_toNat_eq (by
      rw [addrOperand_toNat]
      exact hsum.trans (by simp [hzero]))
    exact congrArg (fun w => Host.Outcome.next (s.setPc w)) htarget
  · rw [← hsum] at hout ⊢
    exact step_outside hat rfl hout

end Sys2Proof.Machine
end

section
/-!
PROOF. The skips (42_skips R140 to R146): each of the six moves the pc by one instruction exactly when its condition holds, and writes
nothing but the pc.
-/

namespace Sys2Proof.Machine

/-! ### The condition of a skip -/

/-- The key a register names is the one its low nibble counts to (42_skips R144). -/
theorem State.keyOf_eq_getD (s : State) (x : Reg) : s.keyOf x = s.keys.getD ((s.reg x).toNat % 16) false := by
  have h16 : (s.reg x).toNat % 16 < 16 := Nat.mod_lt _ (by decide)
  simp [State.keyOf, lowNibble, Vector.getD, h16]

theorem State.getD_keys_of_val_eq {s : State} {n : Nat} {k : Fin 16} (h : k.val = n) :
    s.keys.getD n false = s.keys[k] := by
  subst h
  simp [Vector.getD]

/-- The six skips run alike: all that tells them apart is the condition (42_skips R146). -/
theorem exec_of_skipCondition {i : Instr} {s : State} {c : Bool} (h : s.skipCondition i = some c) :
    exec i s = .next (s.skipIf c) := by
  cases i with
  | seImm | seReg =>
    cases h
    rfl
  | sneImm | sneReg =>
    cases h
    rw [decide_not]
    rfl
  | skp x | sknp x =>
    cases h
    rw [← State.keyOf_eq_getD]
    rfl
  | _ => cases h

/-! ### What a skip does -/

/-- An untaken skip leaves the pc it has, which is a pc write like any other. -/
theorem skipIf_onlyChanges (s : State) (c : Bool) : onlyChanges [.pc] s (s.skipIf c) := by
  cases c with
  | true => exact setPc_onlyChanges s _
  | false => exact setPc_onlyChanges s s.pc

/-- A skip whose condition is true under `P` and false under `Q`. -/
theorem exec_skip {i : Instr} {s : State} {c : Bool} {P Q : Prop} (h : s.skipCondition i = some c)
    (hP : P → c = true) (hQ : Q → c = false) :
    ∃ t, exec i s = .next t ∧ (P → t.pc = s.pc + 2#16) ∧ (Q → t.pc = s.pc) ∧ onlyChanges [.pc] s t := by
  refine ⟨s.skipIf c, exec_of_skipCondition h, fun p => ?_, fun q => ?_, skipIf_onlyChanges s c⟩
  · rw [hP p]
    rfl
  · rw [hQ q]
    rfl

/-! ### The obligations -/

/-- Settles O33: the two forms compare for equality and for its negation. -/
theorem skipOnImmediate : Obligations.SkipOnImmediate := by
  refine fun x nn s => ⟨⟨by simp [decode, decodeWith], ?_⟩, by simp [decode, decodeWith], ?_⟩
  · exact exec_skip (i := .seImm x nn) rfl decide_eq_true decide_eq_false
  · exact exec_skip (i := .sneImm x nn) rfl decide_eq_true fun h => decide_eq_false (not_not_intro h)

/-- Settles O34: as O33, with the second register for the immediate; groups 5 and 9 decode only where the low nibble is 0. -/
theorem skipOnRegisters : Obligations.SkipOnRegisters := by
  refine ⟨fun x y s => ⟨⟨by simp [decode, decodeWith], ?_⟩, by simp [decode, decodeWith], ?_⟩, fun x y n hn => ?_⟩
  · exact exec_skip (i := .seReg x y) rfl decide_eq_true decide_eq_false
  · exact exec_skip (i := .sneReg x y) rfl decide_eq_true fun h => decide_eq_false (not_not_intro h)
  · constructor <;> simp [decode, decodeWith, hn]

/-- Settles O35: the condition of SKP is the state of the key that the low nibble names, that of SKNP its negation. -/
theorem skipOnKey : Obligations.SkipOnKey := by
  intro x s k hk
  have hkey : s.keys.getD ((s.reg x).toNat % 16) false = s.keys[k] := State.getD_keys_of_val_eq hk
  refine ⟨⟨by simp [decode, decodeWith, decodeGroupE], ?_⟩, by simp [decode, decodeWith, decodeGroupE], ?_⟩
  · exact exec_skip (i := .skp x) rfl hkey.trans hkey.trans
  · have hnot : ∀ b, s.keys[k] = b → (!s.keys.getD ((s.reg x).toNat % 16) false) = !b := fun b h => by rw [hkey, h]
    exact exec_skip (i := .sknp x) rfl (hnot false) (hnot true)

end Sys2Proof.Machine
end

section
/-!
PROOF. Register loads, arithmetic, bitwise, shift and random (43_alu R160 to R172): a form without a flag writes its destination alone;
a form with a flag writes its destination and then VF, so the flag stands when the destination is VF.
-/

namespace Sys2Proof.Machine

/-! ### Writing a register, with or without a flag -/

theorem setReg_onlyChanges (s : State) (x : Reg) (b : Byte) : onlyChanges [.reg x] s (s.setReg x b) := by
  intro f hf
  cases f with
  | reg r =>
    have hr : r ≠ x := fun e => hf (by simp [e])
    exact State.reg_setReg_other s hr b
  | pendingInputs => exact ⟨rfl, rfl⟩
  | _ => rfl

theorem setRegFlag_onlyChanges (s : State) (x : Reg) (b c : Byte) :
    onlyChanges [.reg x, .reg regF] s (s.setRegFlag x b c) :=
  onlyChanges_trans (setReg_onlyChanges s x b) (setReg_onlyChanges _ regF c)

theorem State.reg_setRegFlag_same (s : State) {x : Reg} (hx : x ≠ regF) (b c : Byte) : (s.setRegFlag x b c).reg x = b := by
  simp [State.reg_setRegFlag, hx]

/-- A form that writes one register and no flag. -/
theorem exec_setReg {i : Instr} {s : State} {x : Reg} {b : Byte} (h : exec i s = .next (s.setReg x b)) :
    ∃ t, exec i s = .next t ∧ t.reg x = b ∧ onlyChanges [.reg x] s t :=
  ⟨_, h, State.reg_setReg_same s x b, setReg_onlyChanges s x b⟩

/-- A form that writes one register and then the flag (10_state R23). -/
theorem exec_setRegFlag {i : Instr} {s : State} {x : Reg} {b c : Byte} (h : exec i s = .next (s.setRegFlag x b c)) :
    ∃ t, exec i s = .next t ∧ (x ≠ 0xF#4 → t.reg x = b) ∧ t.reg 0xF#4 = c ∧ onlyChanges [.reg x, .reg 0xF#4] s t :=
  ⟨_, h, fun hx => State.reg_setRegFlag_same s hx b c, State.reg_setRegFlag_regF s x b c, setRegFlag_onlyChanges s x b c⟩

/-! ### The flags -/

theorem flagByte_decide_of {p : Prop} [Decidable p] (h : p) : flagByte (decide p) = 1#8 := by
  rw [decide_eq_true h]
  rfl

theorem flagByte_decide_of_not {p : Prop} [Decidable p] (h : ¬p) : flagByte (decide p) = 0#8 := by
  rw [decide_eq_false h]
  rfl

theorem flagByte_toNat (c : Bool) : (flagByte c).toNat = c.toNat := by
  cases c <;> rfl

theorem shiftOutRight_toNat (a : Byte) : (shiftOutRight a).toNat = a.toNat % 2 := by
  rw [shiftOutRight, flagByte_toNat, BitVec.getLsbD, Nat.testBit_zero]
  rcases Nat.mod_two_eq_zero_or_one a.toNat with h | h <;> simp [h]

theorem shiftOutLeft_toNat (a : Byte) : (shiftOutLeft a).toNat = a.toNat / 128 := by
  have ha := a.isLt
  rw [shiftOutLeft, flagByte_toNat, BitVec.getLsbD, Nat.toNat_testBit]
  omega

/-! ### Byte arithmetic (43_alu R171) -/

theorem toNat_sub_add_mod (a b : Byte) : ((a - b).toNat + b.toNat) % 256 = a.toNat :=
  (BitVec.toNat_add _ _).symm.trans (congrArg BitVec.toNat (BitVec.sub_add_cancel a b))

/-- A form that writes a difference and then its no-borrow flag (43_alu R167, R169). -/
theorem exec_subtract {i : Instr} {s : State} {x : Reg} {a b : Byte} (h : exec i s = .next (s.setRegFlag x (a - b) (noBorrowFlag a b))) :
    ∃ t, exec i s = .next t ∧ (x ≠ 0xF#4 → ((t.reg x).toNat + b.toNat) % 256 = a.toNat) ∧
      (b.toNat ≤ a.toNat → t.reg 0xF#4 = 1#8) ∧ (a.toNat < b.toNat → t.reg 0xF#4 = 0#8) ∧
      onlyChanges [.reg x, .reg 0xF#4] s t := by
  obtain ⟨t, ht, hx, hF, hframe⟩ := exec_setRegFlag h
  refine ⟨t, ht, fun hne => ?_, fun hle => ?_, fun hlt => ?_, hframe⟩
  · rw [hx hne]
    exact toNat_sub_add_mod a b
  · exact hF.trans (flagByte_decide_of hle)
  · exact hF.trans (flagByte_decide_of_not (Nat.not_le.2 hlt))

/-! ### The words of group 8 -/

theorem decode_packXYN_eight (x y : Reg) (n : Nibble) :
    decode (packXYN 0x8#4 x y n) = decodeGroup8 (packXYN 0x8#4 x y n) := by
  simp [decode, decodeWith]

/-! ### The obligations: forms that write a flag -/

/-- Settles O40: the byte sum wraps, and the flag compares the exact sum with 255. -/
theorem addSetsCarry : Obligations.AddSetsCarry := by
  intro x y s
  obtain ⟨t, ht, hx, hF, hframe⟩ := exec_setRegFlag (i := .addReg x y) (s := s) rfl
  refine ⟨by simp [decode_packXYN_eight, decodeGroup8], t, ht, fun h => ?_, fun h => ?_, fun h => ?_, hframe⟩
  · rw [hx h]
    exact BitVec.toNat_add _ _
  · exact hF.trans (flagByte_decide_of h)
  · exact hF.trans (flagByte_decide_of_not (Nat.not_lt.2 h))

/-- Settles O41: adding the subtrahend back gives the minuend, and the flag compares the two. -/
theorem subtractionsSetNoBorrow : Obligations.SubtractionsSetNoBorrow := by
  refine fun x y s => ⟨⟨by simp [decode_packXYN_eight, decodeGroup8], ?_⟩, by simp [decode_packXYN_eight, decodeGroup8], ?_⟩
  · exact exec_subtract (i := .sub x y) rfl
  · exact exec_subtract (i := .subn x y) rfl

/-- Settles O42: a shift by one halves or doubles, and the bit it drops is the remainder by 2 or the quotient by 128. -/
theorem shiftsSetBitShiftedOut : Obligations.ShiftsSetBitShiftedOut := by
  intro x s
  constructor
  · obtain ⟨t, ht, hx, hF, hframe⟩ := exec_setRegFlag (i := .shr x) (s := s) rfl
    refine ⟨decode_packXYN_shr x, t, ht, fun h => ?_, ?_, hframe⟩
    · rw [hx h, BitVec.toNat_ushiftRight]
      exact Nat.shiftRight_eq_div_pow _ 1
    · rw [hF, shiftOutRight_toNat]
  · obtain ⟨t, ht, hx, hF, hframe⟩ := exec_setRegFlag (i := .shl x) (s := s) rfl
    refine ⟨decode_packXYN_shl x, t, ht, fun h => ?_, ?_, hframe⟩
    · rw [hx h, BitVec.toNat_shiftLeft, Nat.shiftLeft_eq]
    · rw [hF, shiftOutLeft_toNat]

/-! ### The obligations: forms that write no flag -/

/-- Settles O37: both forms are one register write, of the immediate or of the other register's old value. -/
theorem loadsSetOneRegister : Obligations.LoadsSetOneRegister := by
  refine fun x y nn s => ⟨⟨by simp [decode, decodeWith], ?_⟩, by simp [decode_packXYN_eight, decodeGroup8], ?_⟩
  · exact exec_setReg (i := .ldImm x nn) rfl
  · exact exec_setReg (i := .ldReg x y) rfl

/-- Settles O38: one register write, of the byte sum. -/
theorem addImmediateWraps : Obligations.AddImmediateWraps := by
  intro x nn s
  obtain ⟨t, ht, hx, hframe⟩ := exec_setReg (i := .addImm x nn) (s := s) rfl
  refine ⟨by simp [decode, decodeWith], t, ht, ?_, hframe⟩
  rw [hx]
  exact BitVec.toNat_add _ _

/-- Settles O39: one register write each, of a word that combines the operands bit by bit. -/
theorem bitwiseFormsLeaveVF : Obligations.BitwiseFormsLeaveVF := by
  refine fun x y s => ⟨⟨?or, _, rfl, fun k => ?orBit, setReg_onlyChanges s x _⟩,
    ⟨?and, _, rfl, fun k => ?andBit, setReg_onlyChanges s x _⟩, ?xor, _, rfl, fun k => ?xorBit, setReg_onlyChanges s x _⟩
  case or | and | xor => simp [decode_packXYN_eight, decodeGroup8]
  case orBit => rw [State.reg_setReg_same, BitVec.getLsbD_or]
  case andBit => rw [State.reg_setReg_same, BitVec.getLsbD_and]
  case xorBit => rw [State.reg_setReg_same, BitVec.getLsbD_xor]

/-- Settles O43: one register write, of the random byte under the mask. -/
theorem randomIsMasked : Obligations.RandomIsMasked := by
  intro x nn s
  obtain ⟨t, ht, hx, hframe⟩ := exec_setReg (i := .rnd x nn) (s := s) rfl
  refine ⟨by simp [decode, decodeWith], t, ht, fun k => ?_, fun h => ?_, fun h => ?_, hframe⟩
  · rw [hx, BitVec.getLsbD_and]
  · rw [hx, h, BitVec.and_zero]
  · rw [hx, h]
    exact BitVec.and_allOnes

end Sys2Proof.Machine
end

section
/-!
PROOF. The index register and the register-block transfers (44_index_memory R190 to R192, R195 to R197): three forms write `I` alone;
a block transfer in range moves byte `I + k` and register `k` for each k up to its last register, and out of range it faults first (20_memory R55).
-/

namespace Sys2Proof.Machine

/-! ### Writing the index register -/

theorem setIndex_onlyChanges (s : State) (w : Word) : onlyChanges [.index] s (s.setIndex w) := by
  intro f hf
  cases f with
  | index => exact absurd (by simp) hf
  | pendingInputs => exact ⟨rfl, rfl⟩
  | _ => rfl

/-- A register's byte as an addend keeps its value (41_flow_and_stack R126, 44_index_memory R191). -/
@[simp] theorem State.regWide_toNat (s : State) (x : Reg) : (s.regWide x).toNat = (s.reg x).toNat :=
  BitVec.toNat_setWidth_of_le (by decide)

@[simp] theorem lowNibble_toNat (b : Byte) : (lowNibble b).toNat = b.toNat % 16 := by
  simp [lowNibble]

/-- The glyph address is exact: the last glyph begins at 0x09B, so 16 bits hold it (44_index_memory R192). -/
theorem State.glyphAddr_toNat (s : State) (x : Reg) : (s.glyphAddr x).toNat = 0x050 + 5 * ((s.reg x).toNat % 16) := by
  have hsmall : 0x050 + 5 * ((s.reg x).toNat % 16) < 2 ^ 16 := by omega
  rw [State.glyphAddr, lowNibble_toNat, BitVec.toNat_ofNat]
  exact Nat.mod_eq_of_lt hsmall

/-! ### The block transfers -/

/-- What the store leaves at the k-th address of the block is register k (44_index_memory R196). -/
theorem read_storeBlock (m : Memory) (a : Nat) (s : State) {x k : Reg} (h : k.toNat ≤ x.toNat) :
    (m.writeBytes a (s.regBlock x)).read (a + k.toNat) = s.reg k := by
  have hk : (s.regBlock x)[k.toNat]? = some (s.reg k) := by
    rw [State.getElem_regBlock s x h, BitVec.ofNat_toNat, BitVec.setWidth_eq]
  rw [Memory.read_writeBytes, if_pos (Nat.le_add_right ..), Nat.add_sub_cancel_left, List.getD_eq_getElem?_getD, hk,
    Option.getD_some]

/-- The store leaves a byte outside the block as it was (44_index_memory R196). -/
theorem read_storeBlock_outside (m : Memory) {a b : Nat} (s : State) {x : Reg}
    (h : ¬∃ k : Reg, k.toNat ≤ x.toNat ∧ b = a + k.toNat) : (m.writeBytes a (s.regBlock x)).read b = m.read b := by
  refine Memory.read_writeBytes_outside m ?_
  rw [State.length_regBlock]
  by_contra hin
  have hx := x.isLt
  have hk : (BitVec.ofNat 4 (b - a)).toNat = b - a := Nat.mod_eq_of_lt (by omega)
  exact h ⟨BitVec.ofNat 4 (b - a), by omega, by omega⟩

theorem storeBlock_unchangedBut (s : State) (a : Nat) (x : Reg) :
    unchangedBut (fun f => ∃ k : Reg, k.toNat ≤ x.toNat ∧ f = .byte (a + k.toNat)) s
      (s.setMem (s.mem.writeBytes a (s.regBlock x))) := by
  intro f hf
  cases f with
  | byte b => exact read_storeBlock_outside s.mem s fun ⟨k, hk, hb⟩ => hf ⟨k, hk, congrArg Field.byte hb⟩
  | pendingInputs => exact ⟨rfl, rfl⟩
  | _ => rfl

theorem loadBlock_unchangedBut (s : State) (x : Reg) :
    unchangedBut (fun f => ∃ k : Reg, k.toNat ≤ x.toNat ∧ f = .reg k) s (s.loadBlock x) := by
  intro f hf
  cases f with
  | reg r =>
    have hr : x.toNat < r.toNat := Nat.lt_of_not_le fun hle => hf ⟨r, hle, rfl⟩
    exact State.reg_loadBlock_above s hr
  | pendingInputs => exact ⟨rfl, rfl⟩
  | _ => simp [Field.same]

/-! ### An access at `I`, by whether its last byte lies in memory (20_memory R55) -/

theorem exec_access_inside {i : Instr} {n : Nat} {s : State} {f : State → State} (he : exec i s = accessAtIndex i n s f)
    (hn : 0 < n) (h : s.index.toNat + n ≤ 4096) : exec i s = .next (f s) :=
  he.trans (if_pos ((inRange_pos hn).2 h))

theorem exec_access_outside {i : Instr} {n : Nat} {s : State} {f : State → State} (he : exec i s = accessAtIndex i n s f)
    (hn : 0 < n) (h : 4096 < s.index.toNat + n) :
    exec i s = .fault (.memoryOutOfRange (max s.index.toNat 4096) (some (encode i)) (s.pc - 2#16)) :=
  he.trans (if_neg fun hr => absurd ((inRange_pos hn).1 hr) (Nat.not_le.2 h))

theorem exec_ldMemVx (x : Reg) (s : State) : exec (.ldMemVx x) s =
    accessAtIndex (.ldMemVx x) (x.toNat + 1) s fun s => s.setMem (s.mem.writeBytes s.index.toNat (s.regBlock x)) := rfl

theorem exec_ldVxMem (x : Reg) (s : State) :
    exec (.ldVxMem x) s = accessAtIndex (.ldVxMem x) (x.toNat + 1) s fun s => s.loadBlock x := rfl

/-! ### The words of group F -/

theorem decode_packXNN_fifteen (x : Reg) (nn : Byte) :
    decode (packXNN 0xF#4 x nn) = decodeGroupF (packXNN 0xF#4 x nn) := by
  simp [decode, decodeWith]

/-! ### The obligations -/

/-- Settles O45: each form is one write of `I`; the sum wraps at 16 bits, and the address of a glyph lies inside the font table. -/
theorem indexFormsSetI : Obligations.IndexFormsSetI := by
  refine fun n x s => ⟨⟨?ldIWord, _, rfl, addrOperand_toNat n, setIndex_onlyChanges s _⟩,
    ⟨?addIWord, _, rfl, ?sum, setIndex_onlyChanges s _⟩, ?ldFWord, _, rfl, ?glyph⟩
  case ldIWord => simp [decode, decodeWith]
  case addIWord | ldFWord => simp [decode_packXNN_fifteen, decodeGroupF]
  case sum => rw [State.setIndex_index, BitVec.toNat_add, State.regWide_toNat]
  case glyph =>
    have hglyph := State.glyphAddr_toNat s x
    rw [State.setIndex_index]
    exact ⟨hglyph, by omega, by omega, setIndex_onlyChanges s _⟩

/-- Settles O47: in range, byte `I + k` of the written block is register k and the frame is the rest; out of range, the one fault. -/
theorem blockStoreWritesRegisters : Obligations.BlockStoreWritesRegisters := by
  refine fun x s => ⟨by simp [decode_packXNN_fifteen, decodeGroupF], fun hin => ?_, fun hout => ?_⟩
  · exact ⟨_, exec_access_inside (exec_ldMemVx x s) x.toNat.succ_pos hin, fun k => read_storeBlock s.mem _ s,
      storeBlock_unchangedBut s _ x⟩
  · exact exec_access_outside (exec_ldMemVx x s) x.toNat.succ_pos hout

/-- Settles O48: in range, each register up to the last is its byte of memory and the frame is the rest; out of range, the one fault. -/
theorem blockLoadReadsMemory : Obligations.BlockLoadReadsMemory := by
  refine fun x s => ⟨by simp [decode_packXNN_fifteen, decodeGroupF], fun hin => ?_, fun hout => ?_⟩
  · exact ⟨_, exec_access_inside (exec_ldVxMem x s) x.toNat.succ_pos hin,
      fun k hk => (State.reg_loadBlock s x k).trans (if_pos hk), loadBlock_unchangedBut s x⟩
  · exact exec_access_outside (exec_ldVxMem x s) x.toNat.succ_pos hout

end Sys2Proof.Machine
end

section
/-!
PROOF. The framebuffer forms (45_display R210 to R215): CLS replaces the framebuffer; DRW toggles the cells of its sprite, which are
distinct, so a cell is toggled once and the collision is that one of them was lit.
-/

namespace Sys2Proof.Machine

/-! ### Drawing distinct pixels (45_display R211, R214) -/

theorem Screen.get_draw_of_mem (f : Screen) {ps : List Pixel} (hn : ps.Nodup) {p : Pixel} (hp : p ∈ ps) :
    (f.draw ps).1.get p = !f.get p := by
  rw [Screen.get_draw, List.count_eq_one_of_mem hn hp]
  exact Bool.xor_true _

theorem Screen.get_draw_of_not_mem (f : Screen) {ps : List Pixel} {p : Pixel} (hp : p ∉ ps) :
    (f.draw ps).1.get p = f.get p := by
  rw [Screen.get_draw, List.count_eq_zero_of_not_mem hp]
  exact Bool.xor_false _

theorem State.drawSprite_regF_of_lit (s : State) {ps : List Pixel} (hn : ps.Nodup) (h : ∃ p ∈ ps, s.fb.get p = true) :
    (s.drawSprite ps).reg regF = 1#8 := by
  rw [State.reg_drawSprite_regF, (Screen.draw_collides s.fb hn).2 h]
  rfl

theorem State.drawSprite_regF_of_unlit (s : State) {ps : List Pixel} (hn : ps.Nodup) (h : ∀ p ∈ ps, s.fb.get p = false) :
    (s.drawSprite ps).reg regF = 0#8 := by
  have hnone : (s.fb.draw ps).2 = false := by
    rw [← Bool.not_eq_true, Screen.draw_collides s.fb hn]
    rintro ⟨p, hp, hlit⟩
    exact Bool.false_ne_true ((h p hp).symm.trans hlit)
  rw [State.reg_drawSprite_regF, hnone]
  rfl

/-! ### Frames -/

theorem setScreen_unchangedBut (s : State) (f : Screen) : unchangedBut (fun g => ∃ p, g = .pixel p) s (s.setScreen f) := by
  intro g hg
  cases g with
  | pixel p => exact absurd ⟨p, rfl⟩ hg
  | pendingInputs => exact ⟨rfl, rfl⟩
  | _ => rfl

theorem drawSprite_unchangedBut (s : State) (ps : List Pixel) :
    unchangedBut (fun f => f = .reg regF ∨ ∃ p, p ∈ ps ∧ f = .pixel p) s (s.drawSprite ps) := by
  intro f hf
  cases f with
  | reg r => exact State.reg_drawSprite_other s (fun hr => hf (.inl (congrArg Field.reg hr))) ps
  | pixel p => exact Screen.get_draw_of_not_mem s.fb fun hp => hf (.inr ⟨p, hp, rfl⟩)
  | pendingInputs => exact ⟨rfl, rfl⟩
  | _ => rfl

/-! ### DRW, by whether its rows lie in memory (20_memory R55) -/

theorem exec_drw (x y : Reg) (n : Nibble) (s : State) :
    exec (.drw x y n) s = accessAtIndex (.drw x y n) n.toNat s fun s => s.drawSprite (s.sprite x y n) := rfl

theorem toNat_pos_of_ne_zero {n : Nibble} (h : n ≠ 0#4) : 0 < n.toNat :=
  Nat.pos_of_ne_zero fun hn => h (BitVec.eq_of_toNat_eq hn)

/-- A draw of height 0 passes the check wherever `I` points (45_display R215). -/
theorem inRange_height {a : Nat} {n : Nibble} (h : n = 0#4 ∨ a + n.toNat ≤ 4096) : inRange a n.toNat := by
  by_cases hn : n = 0#4
  · rw [hn]
    exact inRange_zero a
  · exact (inRange_pos (toNat_pos_of_ne_zero hn)).2 (h.resolve_left hn)

/-- A sprite of no rows covers no pixel (45_display R215). -/
theorem not_spriteCovers_zero (s : State) (x y : Reg) (p : Pixel) : ¬s.spriteCovers x y 0#4 p :=
  fun ⟨r, hr, _⟩ => Nat.not_lt_zero r hr

/-! ### The obligations -/

/-- Settles O51: the pixels covered are the cells of the sprite's list, which has none twice; with a row outside memory, the one fault. -/
theorem drawTogglesTheSprite : Obligations.DrawTogglesTheSprite := by
  refine fun x y n s => ⟨by simp [decode, decodeWith], fun hin => ?_, fun hn hout => ?_⟩
  · have hnodup := nodup_sprite s x y n
    have hexec : exec (.drw x y n) s = .next (s.drawSprite (s.sprite x y n)) := if_pos (inRange_height hin)
    simp only [← mem_sprite]
    exact ⟨_, hexec, fun p => Screen.get_draw_of_mem s.fb hnodup, State.drawSprite_regF_of_lit s hnodup,
      State.drawSprite_regF_of_unlit s hnodup, drawSprite_unchangedBut s _⟩
  · exact exec_access_outside (exec_drw x y n s) (toNat_pos_of_ne_zero hn) hout

/-- Settles O50: the framebuffer is replaced by the clear one. -/
theorem clearTurnsEveryPixelOff : Obligations.ClearTurnsEveryPixelOff :=
  ⟨by decide, fun s => ⟨_, rfl, Screen.get_clear, setScreen_unchangedBut s _⟩⟩

/-- Settles O52: the draw of O51 whose sprite covers no pixel, so none is toggled and none was lit. -/
theorem drawOfHeightZero : Obligations.DrawOfHeightZero := by
  intro x y s
  obtain ⟨-, hdraw, -⟩ := drawTogglesTheSprite x y 0#4 s
  obtain ⟨t, ht, -, -, hunlit, hframe⟩ := hdraw (.inl rfl)
  refine ⟨t, ht, hunlit fun p hp => absurd hp (not_spriteCovers_zero s x y p), fun f hf => hframe f ?_⟩
  rintro (hF | ⟨p, hp, -⟩)
  · exact hf (List.mem_singleton.2 hF)
  · exact not_spriteCovers_zero s x y p hp

end Sys2Proof.Machine
end

section
/-!
PROOF. The timer forms and the key-wait (46_timers_keys R230 to R233): each timer form is one move and its cycle counts down after it;
the key-wait writes the lowest pressed key, or rewinds the advance, so that its cycle is a countdown of the state it began with.
-/

namespace Sys2Proof.Machine

/-! ### Writing a timer -/

theorem setDt_onlyChanges (s : State) (b : Byte) : onlyChanges [.dt] s (s.setDt b) := by
  intro f hf
  cases f with
  | dt => exact absurd (by simp) hf
  | pendingInputs => exact ⟨rfl, rfl⟩
  | _ => rfl

theorem setSt_onlyChanges (s : State) (b : Byte) : onlyChanges [.st] s (s.setSt b) := by
  intro f hf
  cases f with
  | st => exact absurd (by simp) hf
  | pendingInputs => exact ⟨rfl, rfl⟩
  | _ => rfl

/-! ### The cycle of a form that leaves the pc as advanced -/

/-- Below 0xFFE the advanced pc passes the pc check (40_cycle R108), so such a form's cycle completes with the countdown. -/
theorem cycle_of_pc_advanced {s u : State} {i : Instr} (hat : s.atInstr i) (hlow : s.pc.toNat < 0xFFE)
    (he : exec i s.advance = .next u) (hpc : u.pc = s.advance.pc) : cycle s = .next u.countTimers := by
  have hadv := advance_pc_toNat hat.1
  refine cycle_inside hat he ?_
  rw [hpc]
  omega

/-! ### The key-wait (46_timers_keys R231) -/

theorem exec_ldVxK_pressed {s : State} (x : Reg) {k : Nat} (h : s.lowestKey = some k) :
    exec (.ldVxK x) s = .next (s.setReg x (BitVec.ofNat 8 k)) := by
  simp only [exec, execLdVxK, h]

theorem exec_ldVxK_waiting {s : State} (x : Reg) (h : s.lowestKey = none) :
    exec (.ldVxK x) s = .next (s.setPc s.fetchPc) := by
  simp only [exec, execLdVxK, h]

/-- The rewind undoes the advance: a waiting key-wait leaves the state its cycle began with. -/
theorem exec_ldVxK_advance_waiting {s : State} (x : Reg) (h : s.lowestKey = none) :
    exec (.ldVxK x) s.advance = .next s := by
  have hundo : s.advance.setPc s.advance.fetchPc = s := by
    rw [State.fetchPc_advance]
    rfl
  rw [exec_ldVxK_waiting x (s := s.advance) h, hundo]

/-! ### The obligations -/

/-- Settles O55: each form is one write, of a register or of a timer, and the cycle's countdown follows it. -/
theorem timerFormsMoveOneTimer : Obligations.TimerFormsMoveOneTimer := by
  refine ⟨fun x s => ⟨⟨?readWord, exec_setReg (i := .ldVxDt x) rfl⟩,
    ⟨?delayWord, _, rfl, State.setDt_dt s _, setDt_onlyChanges s _⟩,
    ?soundWord, _, rfl, State.setSt_st s _, setSt_onlyChanges s _⟩,
    fun x s hlow => ⟨fun hat => ?read, fun hat => ?delay, fun hat => ?sound⟩⟩
  case readWord | delayWord | soundWord => simp [decode_packXNN_fifteen, decodeGroupF]
  case read =>
    exact ⟨_, cycle_of_pc_advanced hat hlow rfl rfl, State.reg_setReg_same s.advance x s.dt, countDown_toNat s.dt⟩
  case delay => exact ⟨_, cycle_of_pc_advanced hat hlow rfl rfl, countDown_toNat (s.reg x), countDown_toNat s.st⟩
  case sound => exact ⟨_, cycle_of_pc_advanced hat hlow rfl rfl, countDown_toNat (s.reg x), countDown_toNat s.dt⟩

/-- Settles O56: by whether a key is pressed; a rewound cycle counts down the state it began with, whose pc passes the pc check even
at 0xFFE. -/
theorem keyWaitTakesLowestKeyOrRewinds : Obligations.KeyWaitTakesLowestKeyOrRewinds := by
  refine ⟨fun x => by simp [decode_packXNN_fifteen, decodeGroupF], fun x s k hk hlow => ?pressed, fun x s hnone => ?waiting,
    fun x s hnone hat => ?waitingCycle⟩
  case pressed =>
    obtain ⟨t, ht, hx, hframe⟩ := exec_setReg (exec_ldVxK_pressed x (lowestKey_some hk hlow))
    refine ⟨t, ht, ?_, hframe⟩
    rw [hx, BitVec.toNat_ofNat]
    exact Nat.mod_eq_of_lt (by omega)
  case waiting => exact ⟨_, exec_ldVxK_waiting x (lowestKey_none hnone), rfl, setPc_onlyChanges s _⟩
  case waitingCycle =>
    have hexec := exec_ldVxK_advance_waiting x (lowestKey_none hnone)
    exact ⟨_, cycle_inside hat hexec (hat.1.trans (by decide)), countDown_toNat s.dt, countDown_toNat s.st,
      countTimers_onlyChanges s⟩

end Sys2Proof.Machine
end

section
/-!
PROOF. The order of the faults of a cycle (60_exceptions R258): the six forms with a check of their own, and the one fault of each.
-/

namespace Sys2Proof.Machine

/-! ### The instructions' own faults (60_exceptions R252 to R254) -/

theorem exec_ldB (x : Reg) (s : State) : exec (.ldB x) s =
    accessAtIndex (.ldB x) 3 s fun s => s.setMem (s.mem.writeBytes s.index.toNat (decimalDigits (s.reg x))) := rfl

theorem accessAtIndex_fault {i : Instr} {n : Nat} {s : State} {g : State → State} {f : Fault}
    (h : accessAtIndex i n s g = .fault f) : f.kind = .memoryOutOfRange := by
  rcases accessAtIndex_cases i n s g with ⟨-, he⟩ | ⟨-, he⟩
  · cases he.symm.trans h
  · cases he.symm.trans h
    rfl

theorem execRet_fault {s : State} {f : Fault} (h : exec .ret s = .fault f) : f.kind = .stackUnderflow := by
  by_cases hsp : s.sp.val = 0
  · cases (exec_ret_empty hsp).symm.trans h
    rfl
  · cases (exec_ret_nonempty hsp).symm.trans h

theorem execCall_fault {n : Addr12} {s : State} {f : Fault} (h : exec (.call n) s = .fault f) :
    f.kind = .stackOverflow := by
  by_cases hsp : s.sp.val = 16
  · cases (exec_call_full n hsp).symm.trans h
    rfl
  · have hfree : s.sp.val < 16 := by omega
    cases (exec_call_free n hfree).symm.trans h

/-- The key-wait has two next states and no fault (46_timers_keys R231). -/
theorem execLdVxK_not_fault {x : Reg} {s : State} {f : Fault} : exec (.ldVxK x) s ≠ .fault f := by
  cases hk : s.lowestKey with
  | some k => exact fun h => nomatch (exec_ldVxK_pressed x hk).symm.trans h
  | none => exact fun h => nomatch (exec_ldVxK_waiting x hk).symm.trans h

/-- The forms that can fault by themselves, with the kind each of them raises; every other arm answers a next state. -/
theorem exec_fault_kind {i : Instr} {s : State} {f : Fault} (h : exec i s = .fault f) :
    ((∃ n, i = .call n) ∧ f.kind = .stackOverflow) ∨ (i = .ret ∧ f.kind = .stackUnderflow) ∨
      (accessesMemory i = true ∧ f.kind = .memoryOutOfRange) := by
  cases i with
  | call n => exact .inl ⟨⟨n, rfl⟩, execCall_fault h⟩
  | ret => exact .inr (.inl ⟨rfl, execRet_fault h⟩)
  | drw x y n => exact .inr (.inr ⟨rfl, accessAtIndex_fault ((exec_drw x y n s).symm.trans h)⟩)
  | ldB x => exact .inr (.inr ⟨rfl, accessAtIndex_fault ((exec_ldB x s).symm.trans h)⟩)
  | ldMemVx x => exact .inr (.inr ⟨rfl, accessAtIndex_fault ((exec_ldMemVx x s).symm.trans h)⟩)
  | ldVxMem x => exact .inr (.inr ⟨rfl, accessAtIndex_fault ((exec_ldVxMem x s).symm.trans h)⟩)
  | ldVxK x => exact absurd h execLdVxK_not_fault
  | _ => cases h

/-! ### The order -/

/-- An instruction's own fault ends its cycle as it is, before the pc check (40_cycle R109). -/
theorem cycle_of_exec_fault {s : State} {i : Instr} {f : Fault} (h : s.atInstr i) (he : exec i s.advance = .fault f) :
    cycle s = .fault f := by
  rw [cycle_of_atInstr h, he]
  rfl

/-- Settles O20: one clause per place of the order, in the order the cycle comes to them, then the kinds of the instructions' own faults. -/
theorem faultsComeInOrder : Obligations.FaultsComeInOrder := by
  refine fun s => ⟨fun hpc => ?fetch, fun w hpc hd => ?invalid, fun i f => cycle_of_exec_fault, fun i u => cycle_outside,
    fun i f => exec_fault_kind⟩
  case fetch => exact cycle_of_fetch_outside (by omega)
  case invalid =>
    obtain rfl := decodeWith_invalid hd
    exact cycle_of_invalid (by omega) hd

end Sys2Proof.Machine
end

section
/-!
PROOF. The host after a fault (60_exceptions R256, R262): what `Load` leaves when it faults, when `HostSkip` is offered and what it does.
-/

namespace Sys2Proof.Machine

/-! ### `Load` (60_exceptions R255, R256) -/

/-- What a `Load` that answers a fault leaves: the block as it was, the fault remembered by the host; a refused call answers no fault. -/
theorem Session.load_fault {h : Session} {image : List Byte} {f : Fault} (hf : (h.load image).2 = .fault f) :
    (h.load image).1 = { h with lastFault := some f } := by
  unfold Session.load at hf ⊢
  split_ifs at hf ⊢
  cases hl : loadImage image h.block with
  | next t =>
    rw [hl] at hf
    cases hf
  | fault g =>
    rw [hl] at hf
    cases hf
    rfl
  | refused r =>
    rw [hl] at hf
    cases hf

/-- Settles O26: what either call leaves differs from the session before it only in what the host remembers. -/
theorem faultLeavesBlockUnchanged : Obligations.FaultLeavesBlockUnchanged := by
  refine fun h f => ⟨fun k hf => ?step, fun image hf => ?load⟩
  case step => rw [(Session.step_fault hf).1]
  case load => rw [Session.load_fault hf]

/-! ### `HostSkip` (60_exceptions R262) -/

theorem Session.hostSkip_of_invalid {h : Session} {w p : Word} (hl : h.lastFault = some (.invalidInstruction w p)) :
    h.hostSkip = ({ h with block := Machine.hostSkip h.block, lastFault := none }, .ok) := by
  simp only [Session.hostSkip, hl]

theorem Session.hostSkip_of_not_invalid {h : Session} (hl : ∀ w p, h.lastFault ≠ some (.invalidInstruction w p)) :
    h.hostSkip = (h, .refused .skipNotOffered) := by
  unfold Session.hostSkip
  split
  · next w p hw => exact absurd hw (hl w p)
  · rfl

/-- Only a fetched word is Invalid: a `Step` that answers InvalidInstruction began where both bytes of a word lie in memory, since a
session is stuck on fatal faults only. -/
theorem Session.pc_of_step_invalid {h : Session} {k : Input} {w p : Word}
    (hf : (h.step k).2 = .fault (.invalidInstruction w p)) : h.block.pc.toNat + 2 ≤ 4096 := by
  obtain ⟨-, hstuck | ⟨-, hcycle⟩⟩ := Session.step_fault hf
  · exact nomatch (Session.stuckOn_eq_some.1 hstuck).2
  · obtain ⟨-, -, hpc, -⟩ | hfatal := cycle_fault hcycle
    · exact hpc
    · cases hfatal

/-- A `Step` of a session that remembers no fault, with the pc where no word can be fetched, answers the fetch's fault (40_cycle R101). -/
theorem Session.step_fetch_outside {h : Session} (hl : h.lastFault = none) (hpc : 4096 < h.block.pc.toNat + 2) (k : Input) :
    (h.step k).2 = .fault (.memoryOutOfRange (max h.block.pc.toNat 4096) none h.block.pc) := by
  have hfree : h.stuckOn = none := by rw [Session.stuckOn, hl, Option.filter_none]
  rw [Session.step_free hfree, cycle_of_fetch_outside (s := h.block.withInput k) hpc]
  rfl

/-- Settles O25: by whether the host remembers InvalidInstruction; a skip forgets it, so the next `Step` from 0x1000 is a cycle. -/
theorem hostSkipOnlyAfterInvalid : Obligations.HostSkipOnlyAfterInvalid := by
  refine fun h => ⟨fun w p hl => ?offered, Session.hostSkip_of_not_invalid, fun k w p hf => ?bound, fun k w p hl hpc => ?top⟩
  case offered => exact ⟨_, Session.hostSkip_of_invalid hl, rfl, setPc_onlyChanges h.block _⟩
  case bound =>
    have hpc := Session.pc_of_step_invalid hf
    exact ⟨congrArg Session.lastFault (Session.step_fault hf).1, by omega⟩
  case top =>
    have hskip : (Machine.hostSkip h.block).pc = 0x1000#16 := congrArg (· + instrBytes) hpc
    rw [Session.hostSkip_of_invalid hl, Session.step_fetch_outside rfl (by rw [hskip]; decide), hskip]
    rfl

end Sys2Proof.Machine
end

section
/-!
PROOF. Power-on and `Load` (70_reset_and_hazards R280, R284): the power-on memory lists no byte, so each byte reads as its reset contents;
`Load` writes exactly the bytes of its image, or faults by the image's length alone.
-/

namespace Sys2Proof.Machine

/-! ### The power-on contents of memory (R280) -/

theorem length_fontTable : fontTable.length = 80 := rfl

theorem Memory.blank_font (k : Nat) : Memory.blank (0x050 + k) = fontTable.getD k 0#8 :=
  (if_pos (Nat.le_add_right ..)).trans (congrArg (fontTable.getD · 0#8) (Nat.add_sub_cancel_left ..))

theorem Memory.blank_outside_font {a : Nat} (h : a < 0x050 ∨ 0x09F < a) : Memory.blank a = 0#8 := by
  obtain hbelow | habove := h
  · exact if_neg (Nat.not_le_of_lt hbelow)
  · obtain ⟨k, rfl⟩ := Nat.exists_eq_add_of_lt habove
    rw [show 0x09F + k + 1 = 0x050 + (80 + k) by omega, Memory.blank_font]
    exact List.getD_eq_default _ _ (Nat.le_add_right ..)

theorem Memory.read_reset (a : Nat) : State.reset.mem.read a = Memory.blank a := rfl

/-- The power-on memory holds the font table where R37 puts it. -/
theorem Memory.readBytes_reset_font : State.reset.mem.readBytes 0x050 80 = fontTable := by
  refine List.ext_getElem (by rw [Memory.readBytes, List.length_map, List.length_range, length_fontTable]) fun k _ hk => ?_
  simp only [Memory.readBytes, List.getElem_map, List.getElem_range, Memory.read_reset, Memory.blank_font]
  exact List.getD_eq_getElem _ _ hk

/-- Settles O9: every vector of the power-on state repeats one value, and memory reads as its power-on contents. -/
theorem powerOnState : Obligations.PowerOnState :=
  ⟨fun x => Vector.getElem_replicate x.isLt, rfl, rfl, rfl, fun k => Vector.getElem_replicate k.isLt, rfl, rfl,
    Screen.get_clear, fun k => Vector.getElem_replicate k.isLt, Memory.readBytes_reset_font,
    fun _ h => Memory.blank_outside_font h⟩

/-! ### Writing several bytes (20_memory R55) -/

theorem Memory.read_writeBytes_inside (m : Memory) (a : Nat) {bs : List Byte} {k : Nat} (h : k < bs.length) (d : Byte) :
    (m.writeBytes a bs).read (a + k) = bs.getD k d := by
  rw [Memory.read_writeBytes, if_pos (Nat.le_add_right ..), Nat.add_sub_cancel_left, List.getD_eq_getElem _ _ h,
    List.getD_eq_getElem _ _ h]

theorem writeBytes_unchangedBut (s : State) (a : Nat) (bs : List Byte) :
    unchangedBut (fun f => ∃ k, k < bs.length ∧ f = .byte (a + k)) s (s.setMem (s.mem.writeBytes a bs)) := by
  intro f hf
  cases f with
  | byte b =>
    refine Memory.read_writeBytes_outside s.mem ?_
    by_contra hin
    exact hf ⟨b - a, by omega, congrArg Field.byte (by omega)⟩
  | pendingInputs => exact ⟨rfl, rfl⟩
  | _ => rfl

/-! ### `Load`, by the length of its image (R284) -/

theorem loadImage_fits {image : List Byte} (s : State) (h : image.length ≤ 3584) :
    loadImage image s = .next (s.setMem (s.mem.writeBytes 0x200 image)) := if_pos h

theorem loadImage_tooLarge {image : List Byte} (s : State) (h : 3584 < image.length) :
    loadImage image s = .fault (.programTooLarge image.length) := if_neg (Nat.not_le_of_lt h)

/-- Settles O23: an image that fits is one write of its bytes at 0x200; a longer one faults before any write. -/
theorem loadCopiesImageOrFaults : Obligations.LoadCopiesImageOrFaults := fun image s =>
  ⟨fun hfits => ⟨_, loadImage_fits s hfits, fun _ hk => Memory.read_writeBytes_inside s.mem 0x200 hk 0#8,
    writeBytes_unchangedBut s 0x200 image⟩, loadImage_tooLarge s⟩

end Sys2Proof.Machine
end

section
/-!
PROOF. The opcode table as a search (30_encoding R73): each row compares the group and at most one selector field of a word, so the first
row that matches a word is found by the same comparisons as the decoder makes, group by group.
-/

namespace Sys2Proof.Machine

/-! ### What the rows compare -/

/-- A row that compares the whole word. -/
def wordRow (v : Word) : OpRow := ⟨v, 0xFFFF#16⟩

/-- A row that compares the group. -/
def groupRow (g : Nibble) : OpRow := ⟨packNNN g 0#12, 0xF000#16⟩

/-- A row that compares the group and the low nibble. -/
def nibbleRow (g n : Nibble) : OpRow := ⟨packXYN g 0#4 0#4 n, 0xF00F#16⟩

/-- A row that compares the group and the low byte. -/
def byteRow (g : Nibble) (nn : Byte) : OpRow := ⟨packXNN g 0#4 nn, 0xF0FF#16⟩

@[simp] theorem wordRow_matches (v w : Word) : (wordRow v).matches w = decide (w = v) := by
  have hmask : w &&& 0xFFFF#16 = w := BitVec.and_allOnes
  rw [wordRow, OpRow.matches, hmask, beq_eq_decide]

@[simp] theorem groupRow_matches (g : Nibble) (w : Word) :
    (groupRow g).matches w = decide ((fieldG w).toNat = g.toNat) := by
  have hmask : w &&& 0xF000#16 = packNNN (fieldG w) 0#12 := by
    rw [← Laws.matches_packNNN _ (fieldNNN w), packNNN_fields rfl]
  rw [groupRow, OpRow.matches, hmask, beq_eq_decide, decide_eq_decide, BitVec.toNat_inj]
  exact ⟨fun e => by simpa using congrArg fieldG e, fun e => by rw [e]⟩

@[simp] theorem nibbleRow_matches (g n : Nibble) (w : Word) :
    (nibbleRow g n).matches w = decide ((fieldG w).toNat = g.toNat ∧ (fieldN w).toNat = n.toNat) := by
  have hmask : w &&& 0xF00F#16 = packXYN (fieldG w) 0#4 0#4 (fieldN w) := by
    rw [← Laws.matches_packXYN _ (fieldX w) (fieldY w), packXYN_fields rfl rfl]
  rw [nibbleRow, OpRow.matches, hmask, beq_eq_decide, decide_eq_decide, BitVec.toNat_inj, BitVec.toNat_inj]
  exact ⟨fun e => ⟨by simpa using congrArg fieldG e, by simpa using congrArg fieldN e⟩, fun ⟨hg, hn⟩ => by rw [hg, hn]⟩

@[simp] theorem byteRow_matches (g : Nibble) (nn : Byte) (w : Word) :
    (byteRow g nn).matches w = decide ((fieldG w).toNat = g.toNat ∧ (fieldNN w).toNat = nn.toNat) := by
  have hmask : w &&& 0xF0FF#16 = packXNN (fieldG w) 0#4 (fieldNN w) := by
    rw [← Laws.matches_packXNN _ (fieldX w), packXNN_fields rfl rfl]
  rw [byteRow, OpRow.matches, hmask, beq_eq_decide, decide_eq_decide, BitVec.toNat_inj, BitVec.toNat_inj]
  exact ⟨fun e => ⟨by simpa using congrArg fieldG e, by simpa using congrArg fieldNN e⟩, fun ⟨hg, hn⟩ => by rw [hg, hn]⟩

/-! ### The table, group 0 and the rest -/

/-- Rows 4 to 35 of R73. -/
def rowsAfterSys : List OpRow :=
  [groupRow 0x1#4, groupRow 0x2#4, groupRow 0x3#4, groupRow 0x4#4, nibbleRow 0x5#4 0x0#4, groupRow 0x6#4, groupRow 0x7#4,
   nibbleRow 0x8#4 0x0#4, nibbleRow 0x8#4 0x1#4, nibbleRow 0x8#4 0x2#4, nibbleRow 0x8#4 0x3#4, nibbleRow 0x8#4 0x4#4,
   nibbleRow 0x8#4 0x5#4, nibbleRow 0x8#4 0x6#4, nibbleRow 0x8#4 0x7#4, nibbleRow 0x8#4 0xE#4, nibbleRow 0x9#4 0x0#4,
   groupRow 0xA#4, groupRow 0xB#4, groupRow 0xC#4, groupRow 0xD#4, byteRow 0xE#4 0x9E#8, byteRow 0xE#4 0xA1#8,
   byteRow 0xF#4 0x07#8, byteRow 0xF#4 0x0A#8, byteRow 0xF#4 0x15#8, byteRow 0xF#4 0x18#8, byteRow 0xF#4 0x1E#8,
   byteRow 0xF#4 0x29#8, byteRow 0xF#4 0x33#8, byteRow 0xF#4 0x55#8, byteRow 0xF#4 0x65#8]

theorem opcodeTable_eq :
    opcodeTable = wordRow 0x00E0#16 :: wordRow 0x00EE#16 :: groupRow 0x0#4 :: rowsAfterSys := rfl

/-- The first row of the table that matches a word (30_encoding R73). -/
def firstRow (w : Word) : Option OpRow := opcodeTable.find? (·.matches w)

/-- A word of another group matches none of the three rows of group 0. -/
theorem firstRow_of_group_ne_zero {w : Word} (hg : (fieldG w).toNat ≠ 0x0) :
    firstRow w = rowsAfterSys.find? (·.matches w) := by
  have hcls : w ≠ 0x00E0#16 := by
    rintro rfl
    exact hg rfl
  have hret : w ≠ 0x00EE#16 := by
    rintro rfl
    exact hg rfl
  simp [firstRow, opcodeTable_eq, hcls, hret, hg]

/-! ### The search and the decoder, group by group (30_encoding R74) -/

@[simp] theorem toOption_instr (i : Instr) : (Decoded.instr i).toOption = some i := rfl

@[simp] theorem toOption_invalid (w : Word) : (Decoded.invalid w).toOption = none := rfl

theorem firstRow_group0 {w : Word} (hg : (fieldG w).toNat = 0x0) :
    firstRow w = (decodeGroup0 .nop w).toOption.map Instr.row := by
  unfold decodeGroup0
  by_cases hcls : w = 0x00E0#16
  · simp [firstRow, opcodeTable_eq, hcls]
    rfl
  · by_cases hret : w = 0x00EE#16
    · simp [firstRow, opcodeTable_eq, hret]
      rfl
    · simp [firstRow, opcodeTable_eq, hcls, hret, hg]
      rfl

theorem firstRow_group8 {w : Word} (hg : (fieldG w).toNat = 0x8) :
    firstRow w = (decodeGroup8 w).toOption.map Instr.row := by
  rw [firstRow_of_group_ne_zero (by omega)]
  unfold decodeGroup8
  split
  case h_10 => simp_all [rowsAfterSys]
  all_goals
    simp [rowsAfterSys, *]
    rfl

theorem firstRow_groupE {w : Word} (hg : (fieldG w).toNat = 0xE) :
    firstRow w = (decodeGroupE w).toOption.map Instr.row := by
  rw [firstRow_of_group_ne_zero (by omega)]
  unfold decodeGroupE
  split
  case h_3 => simp_all [rowsAfterSys]
  all_goals
    simp [rowsAfterSys, *]
    rfl

theorem firstRow_groupF {w : Word} (hg : (fieldG w).toNat = 0xF) :
    firstRow w = (decodeGroupF w).toOption.map Instr.row := by
  rw [firstRow_of_group_ne_zero (by omega)]
  unfold decodeGroupF
  split
  case h_10 => simp_all [rowsAfterSys]
  all_goals
    simp [rowsAfterSys, *]
    rfl

/-- The first matching row is the row of the decoded instruction; where the decoder answers `Invalid`, no row matches. -/
theorem firstRow_eq (w : Word) : firstRow w = (decode w).toOption.map Instr.row := by
  unfold decode decodeWith
  split
  case h_1 hg => exact firstRow_group0 hg
  case h_9 hg => exact firstRow_group8 hg
  case h_15 hg => exact firstRow_groupE hg
  case h_16 hg => exact firstRow_groupF hg
  case h_6 hg | h_10 hg =>
    rw [firstRow_of_group_ne_zero (by omega)]
    by_cases hn : fieldN w = 0#4
    · simp [rowsAfterSys, hg, hn]
      rfl
    · have hn' : (fieldN w).toNat ≠ 0 := fun e => hn (BitVec.eq_of_toNat_eq e)
      simp [rowsAfterSys, hg, hn, hn']
  case h_17 =>
    have := (fieldG w).isLt
    simp only [imp_false] at *
    omega
  all_goals
    rw [firstRow_of_group_ne_zero (by omega)]
    simp [rowsAfterSys, *]
    rfl

/-- A word is `Invalid` exactly when the search finds no row (30_encoding R75). -/
theorem decode_invalid_iff_firstRow {w : Word} : (∃ v, decode w = .invalid v) ↔ firstRow w = none := by
  rw [firstRow_eq]
  cases decode w <;> simp

/-- Settles O3: the search that finds no row is the decoder's `Invalid`, which carries the word it was given. -/
theorem invalidExactlyWhenNoRowMatches : Obligations.InvalidExactlyWhenNoRowMatches := by
  refine fun w => ⟨?_, fun v => decodeWith_invalid⟩
  rw [decode_invalid_iff_firstRow, firstRow, List.find?_eq_none]
  simp only [Bool.not_eq_true]

/-- Settles O4: the search is the decoder's answer. -/
theorem decodedFormIsFirstMatchingRow : Obligations.DecodedFormIsFirstMatchingRow := by
  intro w i h
  have hrow := firstRow_eq w
  rwa [h] at hrow

end Sys2Proof.Machine
end

section
/-!
PROOF. The encoder and the decoder (30_encoding R73, R74): the decoder gives back the instruction of an encoded word, the encoder the
word of a decoded instruction, but for the `Y` field that the shifts ignore (R76); and the decoder of the other `SYS_MODE` (R77).
-/

namespace Sys2Proof.Machine

/-! ### The decoder on an encoded word -/

/-- The two words of group 0 that are no SYS are those of CLS and RET (41_flow_and_stack R120). -/
theorem wellFormed_sys {n : Addr12} : (Instr.sys n).wellFormed = true ↔ n ≠ 0x0E0#12 ∧ n ≠ 0x0EE#12 := by
  simp [Instr.wellFormed]

theorem decode_packXNN_fourteen (x : Reg) (nn : Byte) :
    decode (packXNN 0xE#4 x nn) = decodeGroupE (packXNN 0xE#4 x nn) := by
  simp [decode, decodeWith]

/-- Each form's word has the form's group, its selector and its operands as fields (30_encoding R73, R74). -/
theorem decode_encode {i : Instr} (h : i.wellFormed = true) : decode (encode i) = .instr i := by
  cases i with
  | cls | ret => decide
  | sys n =>
    obtain ⟨hcls, hret⟩ := wellFormed_sys.1 h
    exact (decodeWith_packNNN_zero hcls hret).1
  | ldReg | orReg | andReg | xorReg | addReg | sub | shr | subn | shl =>
    simp [encode, decode_packXYN_eight, decodeGroup8]
  | skp | sknp => simp [encode, decode_packXNN_fourteen, decodeGroupE]
  | ldVxDt | ldVxK | ldDtVx | ldStVx | addI | ldF | ldB | ldMemVx | ldVxMem =>
    simp [encode, decode_packXNN_fifteen, decodeGroupF]
  | _ => simp [encode, decode, decodeWith]

/-- Settles O1, by the form: the packed fields read back. -/
theorem decodeInvertsEncode : Obligations.DecodeInvertsEncode := fun _ => decode_encode

/-! ### The encoder on a decoded instruction -/

/-- A word that decodes to SYS is neither of the two words that CLS and RET take. -/
theorem wellFormed_of_decode {w : Word} {i : Instr} (h : decode w = .instr i) : i.wellFormed = true := by
  cases i with
  | sys n =>
    have hw : packNNN 0x0#4 n = w := encode_of_decodeWith h nofun nofun
    subst hw
    refine wellFormed_sys.2 ⟨?_, ?_⟩ <;> rintro rfl <;> exact absurd h (by decide)
  | _ => rfl

/-- The mask that clears the `Y` field keeps the other three. -/
theorem packXYN_and_clearY (g : Nibble) (x y : Reg) (n : Nibble) :
    packXYN g x y n &&& 0xFF0F#16 = packXYN g x 0#4 n := by
  apply BitVec.eq_of_getLsbD_eq
  intro k hk
  rw [BitVec.getLsbD_and, Laws.getLsbD_packXYN, Laws.getLsbD_packXYN]
  interval_cases k <;> simp

/-- A decoded word matches the row of its instruction. -/
theorem row_matches_of_decode {w : Word} {i : Instr} (h : decode w = .instr i) : i.row.matches w = true :=
  List.find?_some (p := fun r : OpRow => r.matches w) (decodedFormIsFirstMatchingRow w i h)

/-- A word in a row with a low-nibble selector is packed from that row's fields and its own `X` and `Y`. -/
theorem packXYN_of_nibbleRow {w : Word} {g n : Nibble} (h : (nibbleRow g n).matches w = true) :
    packXYN g (fieldX w) (fieldY w) n = w := by
  obtain ⟨hg, hn⟩ : (fieldG w).toNat = g.toNat ∧ (fieldN w).toNat = n.toNat := by simpa using h
  exact packXYN_fields hg hn

/-- Where only `X` decides the instruction of a row, the word with its `Y` field cleared is that of its `X` with a zero `Y`. -/
theorem packXYN_of_decode_ignoringY {w : Word} {n : Nibble} {form : Reg → Instr} {x : Reg}
    (hrow : (nibbleRow 0x8#4 n).matches w = true) (hform : ∀ x y, decode (packXYN 0x8#4 x y n) = .instr (form x))
    (hinj : form.Injective) (h : decode w = .instr (form x)) : packXYN 0x8#4 x 0x0#4 n = w &&& 0xFF0F#16 := by
  have hw := packXYN_of_nibbleRow hrow
  have hx : fieldX w = x := by
    rw [← hw, hform] at h
    exact hinj (Decoded.instr.inj h)
  conv_rhs => rw [← hw, packXYN_and_clearY, hx]

/-- Settles O2: a decoded SYS is no CLS or RET word; for the shifts the word is packed from its fields, and the mask clears `Y`. -/
theorem encodeInvertsDecode : Obligations.EncodeInvertsDecode := by
  refine fun w i h => ⟨wellFormed_of_decode h, ?_⟩
  have hrow := row_matches_of_decode h
  cases i with
  | shr x => exact packXYN_of_decode_ignoringY hrow decode_packXYN_shr (fun _ _ => Instr.shr.inj) h
  | shl x => exact packXYN_of_decode_ignoringY hrow decode_packXYN_shl (fun _ _ => Instr.shl.inj) h
  | _ => exact encode_of_decodeWith h nofun nofun

/-! ### The other `SYS_MODE` -/

/-- Outside group 0 the decoder does not read `SYS_MODE`. -/
theorem decodeWith_of_group_ne_zero {w : Word} (hg : fieldG w ≠ 0#4) (m m' : SysMode) :
    decodeWith m w = decodeWith m' w := by
  have hne : (fieldG w).toNat ≠ 0 := fun e => hg (BitVec.eq_of_toNat_eq e)
  unfold decodeWith
  split
  case h_1 h => exact absurd h hne
  all_goals rfl

/-- Settles O6: only group 0 reads `SYS_MODE`, and there only for the words that are not the two exact ones. -/
theorem sysModeOnlyRemovesSys : Obligations.SysModeOnlyRemovesSys := by
  intro w
  by_cases hg : fieldG w = 0#4
  · have hgroup : ∀ m, decodeWith m w = decodeGroup0 m w := fun m => by simp [decodeWith, hg]
    rw [hgroup, hgroup]
    by_cases hcls : w = 0x00E0#16
    · simp [hcls, decodeGroup0]
    · by_cases hret : w = 0x00EE#16
      · simp [hret, decodeGroup0]
      · simp [hg, hcls, hret, decodeGroup0]
  · rw [if_neg fun h => hg h.1]
    exact decodeWith_of_group_ne_zero hg _ _

/-- Settles O7, by evaluation: each of the twelve words is a literal. -/
theorem knownWordsDecode : Obligations.KnownWordsDecode := by
  unfold Obligations.KnownWordsDecode
  decide

end Sys2Proof.Machine
end

section
/-!
PROOF. Which forms write which piece of state (10_state, 20_memory R54), the invariant that follows from it, and the two outcomes of a step.
-/

namespace Sys2Proof.Machine

/-! ### Who writes what -/

/-- The pieces of state other than the registers that an instruction leaves as they were, unless it is one of the forms that the spec names
for the piece; the inputs no form writes. -/
structure KeepsUnnamed (i : Instr) (s t : State) : Prop where
  index : (∀ n, i ≠ .ldI n) → (∀ x, i ≠ .addI x) → (∀ x, i ≠ .ldF x) → t.index = s.index
  stack : (∀ n, i ≠ .call n) → t.stack = s.stack
  sp : (∀ n, i ≠ .call n) → i ≠ .ret → t.sp = s.sp
  fb : i ≠ .cls → (∀ x y n, i ≠ .drw x y n) → t.fb = s.fb
  dt : (∀ x, i ≠ .ldDtVx x) → t.dt = s.dt
  st : (∀ x, i ≠ .ldStVx x) → t.st = s.st
  mem : (∀ x, i ≠ .ldB x) → (∀ x, i ≠ .ldMemVx x) → t.mem = s.mem
  pc : writesPc i = false → t.pc = s.pc
  keys : t.keys = s.keys
  rand : t.rand = s.rand
  inputs : t.inputs = s.inputs
  draws : t.draws = s.draws

/-- By the form: each answers one of the named updates, which leave every other field as it was. -/
theorem exec_keepsUnnamed {i : Instr} {s t : State} (h : exec i s = .next t) : KeepsUnnamed i s t := by
  cases i with
  | ret =>
    obtain ⟨-, rfl⟩ := execRet_next h
    constructor <;> simp [writesPc]
  | call n =>
    obtain ⟨-, rfl⟩ := execCall_next h
    constructor <;> simp [writesPc]
  | drw x y n =>
    obtain ⟨-, rfl⟩ := execDrw_next h
    constructor <;> simp
  | ldB x =>
    obtain ⟨-, rfl⟩ := execLdB_next h
    constructor <;> simp
  | ldMemVx x =>
    obtain ⟨-, rfl⟩ := execLdMemVx_next h
    constructor <;> simp
  | ldVxMem x =>
    obtain ⟨-, rfl⟩ := execLdVxMem_next h
    constructor <;> simp
  | ldVxK x =>
    obtain ⟨k, -, rfl⟩ | ⟨-, rfl⟩ := execLdVxK_next h
    · constructor <;> simp
    · constructor <;> simp [writesPc]
  | _ =>
    cases h
    constructor <;> simp [writesPc]

/-- Settles O57: the registers are those of O44, and the other pieces of state are kept but by the forms named for them. -/
theorem onlyNamedFormsWrite : Obligations.OnlyNamedFormsWrite := by
  intro i s t h
  have hk := exec_keepsUnnamed h
  exact ⟨fun r hd hblock hflag => exec_reg_unchanged h hd hblock hflag, hk.index, hk.stack, hk.sp, hk.fb, hk.dt, hk.st, hk.mem,
    hk.pc, hk.keys⟩

/-! ### The parts of the invariant -/

theorem exec_keeps_wf {i : Instr} {s t : State} (hwf : s.mem.wf) (h : exec i s = .next t) : t.mem.wf := by
  cases i with
  | ldB x =>
    obtain ⟨hin, rfl⟩ := execLdB_next h
    exact Memory.wf_writeBytes hwf ((inRange_pos (n := 3) (by decide)).1 hin)
  | ldMemVx x =>
    obtain ⟨hin, rfl⟩ := execLdMemVx_next h
    refine Memory.wf_writeBytes hwf ?_
    rw [State.length_regBlock]
    exact (inRange_pos x.toNat.succ_pos).1 hin
  | _ =>
    rw [(exec_keepsUnnamed h).mem nofun nofun]
    exact hwf

/-- A pop leaves fewer entries, each where it was (10_state R28). -/
theorem State.pop_stackSound {s : State} (h : s.stackSound) : s.pop.stackSound := by
  intro k hk
  rw [State.pop_sp_val] at hk
  exact h k (by omega)

/-- A push adds the pushed word to the entries (10_state R28). -/
theorem State.push_stackSound {s : State} (h : s.stackSound) (hfree : s.sp.val < 16) {w : Word}
    (hw : 2 ≤ w.toNat ∧ w.toNat ≤ 0x1000) : (s.push w).stackSound := by
  intro k hk
  rw [State.push_sp_val hfree] at hk
  by_cases hk' : s.sp.val = k.val
  · have hnew : (s.push w).stack[k] = w := by simp [hk']
    rw [hnew]
    exact hw
  · have hold : (s.push w).stack[k] = s.stack[k] := Vector.getElem_setIfInBounds_ne k.isLt hk'
    rw [hold]
    exact h k (by omega)

/-- The address a CALL pushes is the advanced pc, the address after an instruction that lies in memory (41_flow_and_stack R124). -/
theorem exec_keeps_stackSound {i : Instr} {s t : State} (hs : s.stackSound) (hpc : 2 ≤ s.pc.toNat ∧ s.pc.toNat ≤ 0x1000)
    (h : exec i s = .next t) : t.stackSound := by
  cases i with
  | ret =>
    obtain ⟨-, rfl⟩ := execRet_next h
    exact State.pop_stackSound (s := s.setPc s.stackTop) hs
  | call n =>
    obtain ⟨hfree, rfl⟩ := execCall_next h
    exact State.push_stackSound hs hfree hpc
  | _ =>
    have hk := exec_keepsUnnamed h
    simp only [State.stackSound, hk.stack nofun, hk.sp nofun nofun]
    exact hs

/-- Settles O18: the inputs that arrive and the countdown leave memory, pc and stack alone; the instruction keeps the first and the last,
and its pc passed the check. -/
theorem everyStepKeepsInv : Obligations.EveryStepKeepsInv := by
  rintro s t ⟨hwf, -, hstack⟩ h
  obtain ⟨i, u, hfetch, -, hexec, hpc, rfl⟩ := step_next h
  have hadv : s.arrive.advance.pc.toNat = s.pc.toNat + 2 := advance_pc_toNat (s := s.arrive) (show s.pc.toNat ≤ 0xFFE by omega)
  have hsound : u.stackSound := exec_keeps_stackSound (s := s.arrive.advance) hstack (by omega) hexec
  have hcanonical : u.mem.wf := exec_keeps_wf (s := s.arrive.advance) hwf hexec
  exact ⟨hcanonical, Nat.le_of_lt_succ hpc, hsound⟩

/-- Settles O10: the power-on memory is canonical, the pc 0x200, the stack empty. -/
theorem resetSatisfiesInv : Obligations.ResetSatisfiesInv := ⟨Memory.wf_reset, by decide, nofun⟩

/-! ### The pc after a step (40_cycle R108) -/

/-- The forms that never leave memory: a 12-bit target, or the address the key-wait was fetched at. -/
theorem exec_pc_inside {i : Instr} {s u : State} (hat : s.atInstr i) (he : exec i s.advance = .next u)
    (hi : (∃ n, i = .jp n) ∨ (∃ n, i = .call n) ∨ ((∃ x, i = .ldVxK x) ∧ ∀ k : Fin 16, s.keys[k] = false)) :
    u.pc.toNat ≤ 0xFFF := by
  have target : ∀ n : Addr12, (addrOperand n).toNat ≤ 0xFFF := fun n => by
    rw [addrOperand_toNat]
    exact Nat.le_of_lt_succ n.isLt
  obtain ⟨n, rfl⟩ | ⟨n, rfl⟩ | ⟨⟨x, rfl⟩, hnone⟩ := hi
  · cases he
    exact target n
  · obtain ⟨-, rfl⟩ := execCall_next he
    exact target n
  · cases (exec_ldVxK_advance_waiting x (lowestKey_none hnone)).symm.trans he
    exact hat.1.trans (by decide)

/-- Settles O17: the pc check decides, and the targets of JP, CALL and a rewind pass it. -/
theorem pcStaysInsideMemory : Obligations.PcStaysInsideMemory := by
  refine ⟨fun s t h => ?_, fun s u i => cycle_outside, fun s u i hat he hi => ?_⟩
  · obtain ⟨-, u, -, -, -, hpc, rfl⟩ := step_next h
    exact Nat.le_of_lt_succ hpc
  · exact ⟨_, cycle_inside hat he (exec_pc_inside hat he hi)⟩

/-! ### No third outcome (00_scope R11) -/

theorem accessAtIndex_not_refused {i : Instr} {n : Nat} {s : State} {g : State → State} {r : Refusal} :
    accessAtIndex i n s g ≠ .refused r := by
  rcases accessAtIndex_cases i n s g with ⟨-, he⟩ | ⟨-, he⟩ <;> simp [he]

/-- Every form has a meaning: it answers a next state or its one fault. -/
theorem exec_not_refused (i : Instr) (s : State) (r : Refusal) : exec i s ≠ .refused r := by
  intro h
  cases i with
  | ret =>
    by_cases hsp : s.sp.val = 0
    · cases (exec_ret_empty hsp).symm.trans h
    · cases (exec_ret_nonempty hsp).symm.trans h
  | call n =>
    by_cases hsp : s.sp.val = 16
    · cases (exec_call_full n hsp).symm.trans h
    · cases (exec_call_free n (s := s) (by omega)).symm.trans h
  | ldVxK x =>
    cases hk : s.lowestKey with
    | some k => cases (exec_ldVxK_pressed x hk).symm.trans h
    | none => cases (exec_ldVxK_waiting x hk).symm.trans h
  | drw x y n => exact accessAtIndex_not_refused ((exec_drw x y n s).symm.trans h)
  | ldB x => exact accessAtIndex_not_refused ((exec_ldB x s).symm.trans h)
  | ldMemVx x => exact accessAtIndex_not_refused ((exec_ldMemVx x s).symm.trans h)
  | ldVxMem x => exact accessAtIndex_not_refused ((exec_ldVxMem x s).symm.trans h)
  | _ => cases h

theorem endCycle_not_refused {w pcf : Word} {o : Outcome} (ho : ∀ r, o ≠ .refused r) (r : Refusal) :
    endCycle w pcf o ≠ .refused r := by
  cases o with
  | next t =>
    rw [endCycle]
    split
    · exact nofun
    · exact nofun
  | fault f => exact nofun
  | refused r' => exact absurd rfl (ho r')

theorem cycle_not_refused (s : State) (r : Refusal) : cycle s ≠ .refused r := by
  unfold cycle
  split
  · exact nofun
  · next w _ =>
    unfold runWord
    split
    · exact nofun
    · exact endCycle_not_refused (exec_not_refused _ _) r

/-- ProgramTooLarge is `Load`'s own fault (60_exceptions R255). -/
theorem cycle_fault_kind {s : State} {f : Fault} (h : cycle s = .fault f) : f.kind ≠ .programTooLarge := by
  obtain ⟨w, rfl, -⟩ | hfatal := cycle_fault h
  · simp [Fault.kind]
  · cases f with
    | programTooLarge n => cases hfatal
    | _ => simp [Fault.kind]

/-- Settles O19: a cycle is never refused, and its faults are an Invalid word or a fatal one. -/
theorem stepAnswersNextOrFault : Obligations.StepAnswersNextOrFault := by
  intro s
  cases h : step s with
  | next t => exact .inl ⟨t, rfl⟩
  | fault f => exact .inr ⟨f, rfl, cycle_fault_kind h⟩
  | refused r => exact absurd h (cycle_not_refused s.arrive r)

end Sys2Proof.Machine
end

section
/-!
PROOF. What an instruction does not read: with a piece of state replaced (the stack, memory, the keypad, the random byte), every form but
the ones that use it does the same and leaves the replacement as it is.
-/

namespace Sys2Proof.Machine

/-! ### A replacement under the operations that choose between two outcomes -/

/-- `g` replaces a piece of state other than a register, `I` and the pc. -/
structure ReplacesBesideRegisters (g : State → State) : Prop where
  index (s : State) : (g s).index = s.index
  pc (s : State) : (g s).pc = s.pc
  setReg (s : State) (x : Reg) (b : Byte) : (g s).setReg x b = g (s.setReg x b)
  setPc (s : State) (w : Word) : (g s).setPc w = g (s.setPc w)

theorem replaces_stack (k : Vector Word 16) (p : Fin 17) : ReplacesBesideRegisters (·.withStack k p) :=
  ⟨fun _ => rfl, fun _ => rfl, fun _ _ _ => rfl, fun _ _ => rfl⟩

theorem replaces_mem (m : Memory) : ReplacesBesideRegisters (·.setMem m) :=
  ⟨fun _ => rfl, fun _ => rfl, fun _ _ _ => rfl, fun _ _ => rfl⟩

theorem replaces_keys (k : Vector Bool 16) : ReplacesBesideRegisters fun s => { s with keys := k } :=
  ⟨fun _ => rfl, fun _ => rfl, fun _ _ _ => rfl, fun _ _ => rfl⟩

theorem replaces_rand (r : Byte) : ReplacesBesideRegisters fun s => { s with rand := r } :=
  ⟨fun _ => rfl, fun _ => rfl, fun _ _ _ => rfl, fun _ _ => rfl⟩

section
variable {g : State → State} (hg : ReplacesBesideRegisters g) {s : State}
include hg

theorem skipIf_comm (c : Bool) : Host.Outcome.next ((g s).skipIf c) = mapNext g (.next (s.skipIf c)) := by
  cases c with
  | true => simp only [State.skipIf, if_true, hg.pc, hg.setPc, mapNext]
  | false => rfl

theorem exec_access_comm {i : Instr} {n : Nat} {f : State → State} (he : ∀ s, exec i s = accessAtIndex i n s f)
    (hf : f (g s) = g (f s)) : exec i (g s) = mapNext g (exec i s) := by
  simp only [he, accessAtIndex, raise, State.fetchPc, hg.index, hg.pc, hf]
  split
  · rfl
  · rfl

theorem exec_ldVxK_comm {x : Reg} (hkey : (g s).lowestKey = s.lowestKey) :
    exec (.ldVxK x) (g s) = mapNext g (exec (.ldVxK x) s) := by
  cases hk : s.lowestKey with
  | some k => rw [exec_ldVxK_pressed x hk, exec_ldVxK_pressed x (hkey.trans hk), hg.setReg, mapNext]
  | none => rw [exec_ldVxK_waiting x hk, exec_ldVxK_waiting x (hkey.trans hk), State.fetchPc, hg.pc, hg.setPc, mapNext, State.fetchPc]

theorem exec_ret_comm (hsp : (g s).sp = s.sp) (htop : (g s).stackTop = s.stackTop) (hpop : ∀ s, (g s).pop = g s.pop) :
    exec .ret (g s) = mapNext g (exec .ret s) := by
  simp only [exec, execRet, raise, State.fetchPc, hsp, htop, hg.pc, hg.setPc, hpop]
  split
  · rfl
  · rfl

theorem exec_call_comm {n : Addr12} (hsp : (g s).sp = s.sp) (hpush : ∀ w, (g s).push w = g (s.push w)) :
    exec (.call n) (g s) = mapNext g (exec (.call n) s) := by
  simp only [exec, execCall, raise, State.fetchPc, hsp, hg.pc, hpush, hg.setPc]
  split
  · rfl
  · rfl

end

/-! ### The forms that do not use the piece replaced -/

/-- A form that does not use the stack (41_flow_and_stack R125). -/
theorem exec_withStack {i : Instr} (s : State) (k : Vector Word 16) (p : Fin 17) (hret : i ≠ .ret) (hcall : ∀ n, i ≠ .call n) :
    exec i (s.withStack k p) = mapNext (·.withStack k p) (exec i s) := by
  have hg := replaces_stack k p
  cases i with
  | ret => exact absurd rfl hret
  | call n => exact absurd rfl (hcall n)
  | seImm | sneImm | seReg | sneReg | skp | sknp => exact skipIf_comm hg _
  | drw x y n => exact exec_access_comm hg (exec_drw x y n) rfl
  | ldB x => exact exec_access_comm hg (exec_ldB x) rfl
  | ldMemVx x => exact exec_access_comm hg (exec_ldMemVx x) rfl
  | ldVxMem x => exact exec_access_comm hg (exec_ldVxMem x) rfl
  | ldVxK x => exact exec_ldVxK_comm hg rfl
  | _ => rfl

/-- A form that does not access memory (20_memory R54). -/
theorem exec_setMem {i : Instr} (s : State) (m : Memory) (h : accessesMemory i = false) :
    exec i (s.setMem m) = mapNext (·.setMem m) (exec i s) := by
  have hg := replaces_mem m
  cases i with
  | drw | ldB | ldMemVx | ldVxMem => cases h
  | seImm | sneImm | seReg | sneReg | skp | sknp => exact skipIf_comm hg _
  | ldVxK x => exact exec_ldVxK_comm hg rfl
  | ret => exact exec_ret_comm hg rfl rfl fun _ => rfl
  | call n => exact exec_call_comm hg rfl fun _ => rfl
  | _ => rfl

/-- A form that does not read the keypad (10_state R32). -/
theorem exec_withKeys {i : Instr} (s : State) (k : Vector Bool 16) (h : readsKeys i = false) :
    exec i { s with keys := k } = mapNext (fun t => { t with keys := k }) (exec i s) := by
  have hg := replaces_keys k
  cases i with
  | skp | sknp | ldVxK => cases h
  | seImm | sneImm | seReg | sneReg => exact skipIf_comm hg _
  | drw x y n => exact exec_access_comm hg (exec_drw x y n) rfl
  | ldB x => exact exec_access_comm hg (exec_ldB x) rfl
  | ldMemVx x => exact exec_access_comm hg (exec_ldMemVx x) rfl
  | ldVxMem x => exact exec_access_comm hg (exec_ldVxMem x) rfl
  | ret => exact exec_ret_comm hg rfl rfl fun _ => rfl
  | call n => exact exec_call_comm hg rfl fun _ => rfl
  | _ => rfl

/-- A form that does not read the random byte (10_state R40). -/
theorem exec_withRand {i : Instr} (s : State) (r : Byte) (h : ∀ x nn, i ≠ .rnd x nn) :
    exec i { s with rand := r } = mapNext (fun t => { t with rand := r }) (exec i s) := by
  have hg := replaces_rand r
  cases i with
  | rnd x nn => exact absurd rfl (h x nn)
  | seImm | sneImm | seReg | sneReg | skp | sknp => exact skipIf_comm hg _
  | drw x y n => exact exec_access_comm hg (exec_drw x y n) rfl
  | ldB x => exact exec_access_comm hg (exec_ldB x) rfl
  | ldMemVx x => exact exec_access_comm hg (exec_ldMemVx x) rfl
  | ldVxMem x => exact exec_access_comm hg (exec_ldVxMem x) rfl
  | ldVxK x => exact exec_ldVxK_comm hg rfl
  | ret => exact exec_ret_comm hg rfl rfl fun _ => rfl
  | call n => exact exec_call_comm hg rfl fun _ => rfl
  | _ => rfl

/-! ### The obligations -/

/-- Settles O31: the address on top is the one the CALL pushed, one entry above its depth; every other form leaves the stack aside. -/
theorem returnComesBackAfterCall : Obligations.ReturnComesBackAfterCall := by
  refine ⟨fun n s t u hcall hstack hsp => ?_, fun i s k p => exec_withStack s k p⟩
  obtain ⟨hfree, rfl⟩ := execCall_next hcall
  have hdepth : u.sp.val = s.sp.val + 1 := (congrArg Fin.val hsp).trans (State.push_sp_val hfree s.pc)
  have htop : u.stackTop = s.pc := by
    rw [State.stackTop, hstack, hsp]
    exact State.stackTop_push hfree s.pc
  refine ⟨_, exec_ret_nonempty (by omega), htop, Fin.ext ?_⟩
  rw [State.pop_sp_val]
  exact Nat.sub_eq_of_eq_add hdepth

/-- Settles O58: reading and writing are by replacement, and the four forms that access memory are excluded by hypothesis. -/
theorem onlyFourFormsTouchMemory : Obligations.OnlyFourFormsTouchMemory := fun _ => exec_setMem

/-- Settles O59: reading is by replacement; that no form writes the inputs is part of what every form keeps. -/
theorem inputsReadByNamedFormsOnly : Obligations.InputsReadByNamedFormsOnly := by
  refine ⟨fun i => exec_withKeys, fun i => exec_withRand, fun i s t h => ?_⟩
  have hk := exec_keepsUnnamed h
  exact ⟨hk.keys, hk.rand, hk.inputs, hk.draws⟩

end Sys2Proof.Machine
end

section
/-!
PROOF. What the inputs of a cycle decide (40_cycle R110): a replacement that its instruction does not read goes through the cycle, so the
fault is the same; the key-wait at 0xFFE is the counterexample to the literal reading.
-/

namespace Sys2Proof.Machine

/-! ### A replacement under a whole cycle -/

theorem endCycle_comm {g : State → State} (hpc : ∀ t, (g t).pc = t.pc) (hcount : ∀ t, (g t).countTimers = g t.countTimers)
    (w pcf : Word) (o : Outcome) : endCycle w pcf (mapNext g o) = mapNext g (endCycle w pcf o) := by
  cases o with
  | next t =>
    simp only [mapNext, endCycle, hpc, hcount]
    split
    · rfl
    · rfl
  | fault f => rfl
  | refused r => rfl

theorem cycle_comm {g : State → State} {s : State} (hg : ReplacesBesideRegisters g) (hmem : (g s).mem = s.mem)
    (hcount : ∀ t, (g t).countTimers = g t.countTimers)
    (hexec : ∀ i, s.atInstr i → exec i (g s.advance) = mapNext g (exec i s.advance)) :
    cycle (g s) = mapNext g (cycle s) := by
  have hword : (g s).wordAt = s.wordAt := by simp only [State.wordAt, hg.pc, hmem]
  have hadv : (g s).advance = g s.advance := by rw [State.advance, hg.pc, hg.setPc, State.advance]
  by_cases hpc : 4096 < s.pc.toNat + 2
  · rw [cycle_of_fetch_outside hpc, cycle_of_fetch_outside (s := g s) (by rw [hg.pc]; exact hpc), hg.pc, mapNext]
  · have hin : s.pc.toNat ≤ 0xFFE := by omega
    cases hd : decode s.wordAt with
    | invalid v =>
      have hd' : decode (g s).wordAt = .invalid v := by rw [hword, hd]
      rw [cycle_of_invalid (by omega) hd, cycle_of_invalid (by rw [hg.pc]; omega) hd', hg.pc, mapNext]
    | instr i =>
      have hat : s.atInstr i := ⟨hin, hd⟩
      rw [cycle_of_atInstr hat, cycle_of_atInstr (atInstr_of_same hat (hg.pc s) hmem), hword, hg.pc, hadv, hexec i hat,
        endCycle_comm hg.pc hcount]

/-! ### The faults of a cycle under other inputs -/

/-- Whether the pc check faults is decided by the pc alone (40_cycle R108). -/
theorem endCycle_fault_of_same_pc {w pcf : Word} {t u : State} {f : Fault} (hpc : u.pc = t.pc)
    (h : endCycle w pcf (.next t) = .fault f) : endCycle w pcf (.next u) = .fault f := by
  by_cases ht : t.pc.toNat ≤ 0xFFF
  · cases (endCycle_inside ht).symm.trans h
  · have hout := Nat.lt_of_not_le ht
    rw [endCycle_outside (by rw [hpc]; exact hout), hpc, ← endCycle_outside hout, h]

/-- RND reads the random byte into a register and leaves the pc, and every other form leaves the byte aside. -/
theorem cycle_fault_withRand {s : State} {f : Fault} (h : cycle s = .fault f) (r : Byte) :
    cycle { s with rand := r } = .fault f := by
  by_cases hrnd : ∃ x nn, s.atInstr (.rnd x nn)
  · obtain ⟨x, nn, hat⟩ := hrnd
    rw [cycle_of_atInstr hat] at h
    rw [cycle_of_atInstr (s := { s with rand := r }) hat]
    exact endCycle_fault_of_same_pc (t := s.advance.setReg x (s.rand &&& nn)) rfl h
  · have hexec : ∀ i, s.atInstr i → exec i { s.advance with rand := r } = mapNext (fun t => { t with rand := r }) (exec i s.advance) :=
      fun i hat => exec_withRand s.advance r fun x nn hi => hrnd ⟨x, nn, hi ▸ hat⟩
    rw [cycle_comm (replaces_rand r) rfl (fun _ => rfl) hexec, h, mapNext]

theorem cycle_fault_withKeys {s : State} {f : Fault} (hi : ∀ i, s.atInstr i → readsKeys i = false) (h : cycle s = .fault f)
    (k : Vector Bool 16) : cycle { s with keys := k } = .fault f := by
  rw [cycle_comm (replaces_keys k) rfl (fun _ => rfl) fun i hat => exec_withKeys s.advance k (hi i hat), h, mapNext]

/-- Settles O22: the two inputs are replaced one after the other. -/
theorem faultIgnoresInputsButKeyForms : Obligations.FaultIgnoresInputsButKeyForms := by
  refine ⟨fun s k r r' f h => cycle_fault_withRand h r', fun s k k' f hi h => ?_⟩
  exact cycle_fault_withRand (cycle_fault_withKeys (s := s.withInput k) hi h k'.keys) k'.rand

/-! ### The literal reading of R110 -/

/-- A key-wait that finds a key at 0xFFE leaves the pc at 0x1000 (40_cycle R108). -/
theorem cycle_keyWait_top_pressed {s : State} {x : Reg} {k : Nat} (hat : s.atInstr (.ldVxK x)) (htop : s.pc = 0xFFE#16)
    (hk : s.lowestKey = some k) : cycle s = .fault (.memoryOutOfRange 0x1000 (some s.wordAt) s.pc) := by
  have hpc : (s.advance.setReg x (BitVec.ofNat 8 k)).pc = 0x1000#16 := by
    rw [State.setReg_pc, State.advance_pc, htop]
    rfl
  rw [cycle_outside hat (exec_ldVxK_pressed x hk) (by rw [hpc]; decide), hpc]
  rfl

/-- The key-wait LD V3, K in the last two bytes of memory, and the pc there. -/
def keyWaitAtTop : State := { State.reset with pc := 0xFFE#16, mem := [(0xFFE, 0xF3#8), (0xFFF, 0x0A#8)] }

theorem keyWaitAtTop_atInstr (k : Input) : (keyWaitAtTop.withInput k).atInstr (.ldVxK 3#4) := by
  have h : keyWaitAtTop.atInstr (.ldVxK 3#4) := by decide
  exact h

/-- Refutes O21: the key-wait at 0xFFE runs out of memory with every key pressed and rewinds with none. -/
theorem not_faultIgnoresAllInputs : ¬ Obligations.FaultIgnoresAllInputs := by
  intro h
  have hpressed := cycle_keyWait_top_pressed (k := 0) (keyWaitAtTop_atInstr ⟨Vector.replicate 16 true, 0#8⟩) rfl rfl
  have hwaiting := h keyWaitAtTop _ ⟨Vector.replicate 16 false, 0#8⟩ _ hpressed
  obtain ⟨t, ht, -⟩ := keyWaitTakesLowestKeyOrRewinds.2.2.2 3#4 (keyWaitAtTop.withInput ⟨Vector.replicate 16 false, 0#8⟩)
    (by decide) (keyWaitAtTop_atInstr _)
  cases ht.symm.trans hwaiting

end Sys2Proof.Machine
end

section
/-!
PROOF. The cycle of a skip near the top of memory (42_skips R147): the advanced pc plus at most one more instruction width, against the
pc check.
-/

namespace Sys2Proof.Machine

/-- The condition of a skip does not read the pc. -/
@[simp] theorem skipCondition_advance (s : State) (i : Instr) : s.advance.skipCondition i = s.skipCondition i := by
  cases i with
  | _ => rfl

theorem exec_skip_advance {s : State} {i : Instr} {c : Bool} (h : s.skipCondition i = some c) :
    exec i s.advance = .next (s.advance.skipIf c) :=
  exec_of_skipCondition ((skipCondition_advance s i).trans h)

/-- A taken skip leaves the pc two instructions on, also where the fetch was the last one possible. -/
theorem skipped_pc_toNat {s : State} (hpc : s.pc.toNat ≤ 0xFFE) : (s.advance.skipIf true).pc.toNat = s.pc.toNat + 4 := by
  have hadv := advance_pc_toNat hpc
  show (s.advance.pc + instrBytes).toNat = _
  rw [BitVec.toNat_add, hadv]
  show (s.pc.toNat + 2 + 2) % 65536 = _
  omega

/-- Settles O36: the pc check at two instruction widths after the fetch for a taken skip, at one for an untaken skip. -/
theorem skipNearTopFaults : Obligations.SkipNearTopFaults := by
  refine fun s i c hat hc => ⟨?_, ?_⟩
  · rintro rfl hlow
    have hpc := skipped_pc_toNat hat.1
    rw [cycle_outside hat (exec_skip_advance hc) (by omega), hpc]
  · rintro rfl htop
    have hpc : (s.advance.skipIf false).pc.toNat = 0x1000 := (advance_pc_toNat hat.1).trans (by omega)
    rw [cycle_outside hat (exec_skip_advance hc) (by omega), hpc]

end Sys2Proof.Machine
end

section
/-!
PROOF. The decimal split (44_index_memory R193, R194), and stores over the next instruction (70_reset_and_hazards R287).
-/

namespace Sys2Proof.Machine

/-! ### The decimal digits -/

@[simp] theorem length_decimalDigits (b : Byte) : (decimalDigits b).length = 3 := rfl

/-- What LD B leaves at its three addresses: each digit fits a byte (44_index_memory R193). -/
theorem read_decimalDigits (m : Memory) (a : Nat) (b : Byte) :
    ((m.writeBytes a (decimalDigits b)).read a).toNat = b.toNat / 100 ∧
      ((m.writeBytes a (decimalDigits b)).read (a + 1)).toNat = b.toNat / 10 % 10 ∧
      ((m.writeBytes a (decimalDigits b)).read (a + 2)).toNat = b.toNat % 10 := by
  have hb := b.isLt
  have digit : ∀ {k v : Nat}, k < 3 → (decimalDigits b).getD k 0#8 = BitVec.ofNat 8 v → v < 256 →
      ((m.writeBytes a (decimalDigits b)).read (a + k)).toNat = v := by
    intro k v hk hv hsmall
    rw [Memory.read_writeBytes_inside m a hk 0#8, hv, BitVec.toNat_ofNat]
    exact Nat.mod_eq_of_lt hsmall
  exact ⟨digit (k := 0) (by decide) rfl (by omega), digit (k := 1) (by decide) rfl (by omega),
    digit (k := 2) (by decide) rfl (by omega)⟩

theorem decimalDigits_onlyChanges (s : State) (a : Nat) (b : Byte) :
    onlyChanges [.byte a, .byte (a + 1), .byte (a + 2)] s (s.setMem (s.mem.writeBytes a (decimalDigits b))) := by
  refine fun f hf => writeBytes_unchangedBut s a (decimalDigits b) f ?_
  rintro ⟨k, hk, rfl⟩
  rw [length_decimalDigits] at hk
  interval_cases k <;> exact hf (by simp)

/-- Settles O46: in range, the three bytes are the digits, which make up the value; out of range, the one fault. -/
theorem decimalDigitsWritten : Obligations.DecimalDigitsWritten := by
  refine fun x s => ⟨by simp [decode_packXNN_fifteen, decodeGroupF], fun hin => ?_, fun hout => ?_⟩
  · obtain ⟨hhundreds, htens, hones⟩ := read_decimalDigits s.mem s.index.toNat (s.reg x)
    have hb := (s.reg x).isLt
    refine ⟨_, exec_access_inside (exec_ldB x s) (by decide) hin, hhundreds, htens, hones, ?_, ?_, decimalDigits_onlyChanges s _ _⟩
    · rw [State.setMem_mem, hhundreds, htens, hones]
      omega
    · rw [State.setMem_mem, hhundreds]
      omega
  · exact exec_access_outside (exec_ldB x s) (by decide) hout

/-! ### A store over the next instruction -/

theorem fetch_setMem {s : State} {m : Memory} {hi lo : Byte} (hpc : s.pc.toNat + 2 ≤ 4096)
    (hhi : m.read s.pc.toNat = hi) (hlo : m.read (s.pc.toNat + 1) = lo) : (s.setMem m).fetch = some (hi ++ lo) := by
  rw [fetch_inside (s := s.setMem m) hpc, State.setMem_mem, State.setMem_pc, Memory.readWord, hhi, hlo, wordOfBytes]

theorem fetch_writeBytes {s : State} {hi lo : Byte} {bs : List Byte} (hpc : s.pc.toNat + 2 ≤ 4096) :
    (s.setMem (s.mem.writeBytes s.pc.toNat (hi :: lo :: bs))).fetch = some (hi ++ lo) :=
  fetch_setMem hpc (Memory.read_writeBytes_inside s.mem _ (k := 0) (by simp) 0#8)
    (Memory.read_writeBytes_inside s.mem _ (k := 1) (by simp) 0#8)

/-- Settles O49: the store is in range, so the two bytes at the pc can be fetched, and they are the first two stored. -/
theorem storeIsSeenByTheNextFetch : Obligations.StoreIsSeenByTheNextFetch := by
  refine ⟨fun x s t hx hI h => ?_, fun x s t hI h => ?_⟩
  · obtain ⟨hin, rfl⟩ := execLdMemVx_next h
    rw [inRange_pos x.toNat.succ_pos, hI] at hin
    rw [hI]
    exact fetch_setMem (by omega) (read_storeBlock s.mem _ s (k := 0#4) x.toNat.zero_le) (read_storeBlock s.mem _ s (k := 1#4) hx)
  · obtain ⟨hin, rfl⟩ := execLdB_next h
    rw [inRange_pos (by decide), hI] at hin
    rw [hI]
    exact fetch_writeBytes (by omega)

end Sys2Proof.Machine
end

section
/-!
PROOF. Two draws of one sprite in a row (45_display R216): where VF is no operand the second draws the same cells, so it undoes the first,
and it collides exactly where the first left a cell lit.
-/

namespace Sys2Proof.Machine

/-- A draw changes none of what a sprite is read from, unless VF is a coordinate (45_display R211). -/
theorem sprite_drawSprite (s : State) {x y : Reg} (n : Nibble) (ps : List Pixel) (hx : x ≠ regF) (hy : y ≠ regF) :
    (s.drawSprite ps).sprite x y n = s.sprite x y n := by
  simp only [State.sprite, State.reg_drawSprite_other s hx, State.reg_drawSprite_other s hy, State.drawSprite_mem,
    State.drawSprite_index]

/-- Two draws in a row that answer next states draw one list of cells twice. -/
theorem execDrw_twice_next {x y : Reg} {n : Nibble} {s t u : State} (hx : x ≠ regF) (hy : y ≠ regF)
    (ht : exec (.drw x y n) s = .next t) (hu : exec (.drw x y n) t = .next u) :
    t = s.drawSprite (s.sprite x y n) ∧ u = t.drawSprite (s.sprite x y n) := by
  obtain ⟨-, rfl⟩ := execDrw_next ht
  obtain ⟨-, hu⟩ := execDrw_next hu
  rw [sprite_drawSprite s n _ hx hy] at hu
  exact ⟨rfl, hu⟩

theorem exec_drw_inside {x y : Reg} {n : Nibble} {s : State} (h : inRange s.index.toNat n.toNat) :
    exec (.drw x y n) s = .next (s.drawSprite (s.sprite x y n)) := if_pos h

/-- Toggling the same cells again undoes it. -/
theorem Screen.get_draw_twice (f : Screen) (ps : List Pixel) (p : Pixel) : ((f.draw ps).1.draw ps).1.get p = f.get p := by
  rw [Screen.get_draw, Screen.get_draw, Bool.xor_assoc, Bool.xor_self, Bool.xor_false]

/-- Settles O53: cells that were unlit before the first draw are lit before the second. -/
theorem drawingTwiceRestores : Obligations.DrawingTwiceRestores := by
  intro x y n s t u hx hy ht hu
  obtain ⟨rfl, rfl⟩ := execDrw_twice_next hx hy ht hu
  have hnodup := nodup_sprite s x y n
  refine ⟨fun p => Screen.get_draw_twice s.fb _ p, fun ⟨p, hp⟩ hunlit => ⟨?_, ?_⟩⟩
  · exact State.drawSprite_regF_of_unlit s hnodup fun q hq => hunlit q ((mem_sprite s x y n q).1 hq)
  · have hmem := (mem_sprite s x y n p).2 hp
    refine State.drawSprite_regF_of_lit _ hnodup ⟨p, hmem, ?_⟩
    rw [State.drawSprite_fb, Screen.get_draw_of_mem s.fb hnodup hmem, hunlit p hp]
    rfl

/-- Where every cell of the sprite was lit, the first draw turns them off and the second collides with nothing. -/
theorem second_draw_of_lit {s : State} {ps : List Pixel} (hn : ps.Nodup) (hlit : ∀ p ∈ ps, s.fb.get p = true) :
    ((s.drawSprite ps).drawSprite ps).reg regF = 0#8 := by
  refine State.drawSprite_regF_of_unlit _ hn fun p hp => ?_
  rw [State.drawSprite_fb, Screen.get_draw_of_mem s.fb hn hp, hlit p hp]
  rfl

/-- Every pixel lit, and `I` at the last byte of memory, a row with its leftmost bit set. -/
def dotOverLitScreen : State :=
  { State.reset with
    index := 0xFFF#16
    mem := [(0xFFF, 0x80#8)]
    fb := Vector.replicate 32 (Vector.replicate 64 true) }

theorem dotOverLitScreen_lit (p : Pixel) : dotOverLitScreen.fb.get p = true := by
  simp [dotOverLitScreen, Screen.get]

theorem dotOverLitScreen_covers : dotOverLitScreen.spriteCovers 0#4 0#4 1#4 (0, 0) :=
  ⟨0, by decide, 0, by decide, by decide, by decide, by decide⟩

/-- Refutes O54: over a lit screen the second draw of a dot leaves 0 in VF. -/
theorem not_secondDrawAlwaysCollides : ¬ Obligations.SecondDrawAlwaysCollides := by
  intro h
  have hin : inRange dotOverLitScreen.index.toNat (1#4).toNat := by decide
  have hcollides := h 0#4 0#4 1#4 dotOverLitScreen _ _ (by decide) (by decide) ⟨_, dotOverLitScreen_covers⟩
    (exec_drw_inside hin) (exec_drw_inside hin)
  rw [sprite_drawSprite _ _ _ (by decide) (by decide)] at hcollides
  have hnone := second_draw_of_lit (nodup_sprite dotOverLitScreen 0#4 0#4 1#4) fun p _ => dotOverLitScreen_lit p
  exact absurd (hcollides.symm.trans hnone) (by decide)

end Sys2Proof.Machine
end

section
/-!
PROOF. The arrival of a step's inputs and the cycle it runs (40_cycle R100; log entries 1 to 3), and the host's helper that stores a word at
the pc (log entry 33).
-/

namespace Sys2Proof.Machine

/-! ### The inputs of a step -/

/-- Settles O12: a step is the cycle of the arrived state by definition, and the arrival moves neither the pc nor memory. -/
theorem stepRunsDecodedInstruction : Obligations.StepRunsDecodedInstruction := fun s =>
  ⟨rfl, fun _ hat => cycle_of_atInstr (s := s.arrive) hat⟩

theorem nextInput_of_decided {s : State} {k : Input} {ks : List Input} (h : s.inputs = k :: ks) : s.nextInput = k := by
  rw [State.nextInput, h]

theorem nextInput_of_free {s : State} (h : s.inputs = []) :
    s.nextInput = ⟨Config.keypad s.draws, Config.randomByte s.draws⟩ := by
  rw [State.nextInput, h]

theorem arrive_onlyChanges (s : State) : onlyChanges [.keys, .randomByte, .pendingInputs] s s.arrive := by
  intro f hf
  cases f with
  | keys | randomByte | pendingInputs => exact absurd (by simp) hf
  | _ => rfl

/-- Settles O13, by whether inputs are already decided. -/
theorem nextInputsArrive : Obligations.NextInputsArrive := by
  refine fun s => ⟨fun k ks h => ?decided, fun h => ?free, rfl, arrive_onlyChanges s⟩
  case decided =>
    rw [State.arrive_keys, State.arrive_rand, State.arrive_inputs, nextInput_of_decided h, h]
    exact ⟨rfl, rfl, rfl⟩
  case free =>
    rw [State.arrive_keys, State.arrive_rand, State.arrive_inputs, nextInput_of_free h, h]
    exact ⟨rfl, rfl, rfl⟩

/-! ### The helper `withFetchWord` -/

theorem tableWord_sixteen {w : Nat} (h : w < 65536) : tableWord 16 w = BitVec.ofNat 16 w :=
  congrArg (BitVec.ofNat 16) (Nat.mod_eq_of_lt h)

/-- Where both bytes lie in memory the helper is a write of the word's two bytes. -/
theorem withFetchWord_inside {s : State} (hpc : s.pc.toNat ≤ 0xFFE) {w : Nat} (hw : w < 65536) :
    s.withFetchWord 16 w =
      s.setMem (s.mem.writeBytes s.pc.toNat [highByte (BitVec.ofNat 16 w), lowByte (BitVec.ofNat 16 w)]) := by
  have hin : inRange s.pc.toNat 2 := (inRange_pos (by decide)).2 (by omega)
  rw [State.withFetchWord, tableWord_sixteen hw, Memory.placeWord, if_pos hin]

/-- Settles O8: the helper writes the two bytes of the word at the pc, and the fetch joins them again. -/
theorem fetchWordHelperPlacesTheWord : Obligations.FetchWordHelperPlacesTheWord := by
  intro s w hpc hw
  refine ⟨?fetched, fun f hf => ?frame, ?decoded⟩
  case fetched =>
    rw [withFetchWord_inside hpc hw]
    exact (fetch_writeBytes (by omega)).trans (congrArg some (wordOfBytes_bytes _))
  case frame =>
    rw [withFetchWord_inside hpc hw]
    refine writeBytes_unchangedBut s _ _ f ?_
    rintro ⟨k, hk, rfl⟩
    simp only [List.length_cons, List.length_nil] at hk
    interval_cases k <;> exact hf (by simp)
  case decoded => rw [decodeTableWord, decodeBytes_bytes, tableWord_sixteen hw]

end Sys2Proof.Machine
end

section
/-!
PROOF. The host's calls in a row (70_reset_and_hazards R283, 60_exceptions R261): what the host remembers of Load, Step and a fault.
-/

namespace Sys2Proof.Machine

/-! ### A `Step` after a fault (40_cycle R110) -/

/-- A `Step` answers a fatal fault, or InvalidInstruction for the word at the pc, which no input decides. -/
theorem Session.step_fault_cases {h : Session} {k : Input} {f : Fault} (hf : (h.step k).2 = .fault f) :
    f.fatal = true ∨ ∃ w, f = .invalidInstruction w h.block.pc ∧ h.block.pc.toNat + 2 ≤ 4096 ∧
      decode (h.block.mem.readWord h.block.pc.toNat) = .invalid w := by
  obtain ⟨-, hstuck | ⟨-, hcycle⟩⟩ := Session.step_fault hf
  · exact .inl (Session.stuckOn_eq_some.1 hstuck).2
  · exact (cycle_fault hcycle).symm

/-- The session that a fatal fault leaves is stuck on it (93_implementation_defined I10). -/
theorem Session.stuckOn_of_step_fault {h : Session} {k : Input} {f : Fault} (hf : (h.step k).2 = .fault f)
    (hfatal : f.fatal = true) : (h.step k).1.stuckOn = some f := by
  rw [(Session.step_fault hf).1]
  exact Session.stuckOn_eq_some.2 ⟨rfl, hfatal⟩

/-- A further `Step` repeats a fatal fault because the session is stuck, and an InvalidInstruction because the word is the same. -/
theorem Session.step_again {h : Session} {k : Input} {f : Fault} (hf : (h.step k).2 = .fault f) (k' : Input) :
    (h.step k).1.step k' = ((h.step k).1, .fault f) := by
  have hleft := (Session.step_fault hf).1
  obtain hfatal | ⟨w, rfl, hpc, hd⟩ := Session.step_fault_cases hf
  · rw [Session.step_stuck (Session.stuckOn_of_step_fault hf hfatal), hleft]
  · rw [hleft, Session.step_free rfl, cycle_of_invalid (s := h.block.withInput k') hpc hd]
    rfl

/-- On a session that a fatal fault left, no call but PowerOn changes anything or answers Ok (60_exceptions R261). -/
theorem Session.call_after_fatal {h : Session} {k : Input} {f : Fault} (hf : (h.step k).2 = .fault f)
    (hinvalid : ∀ w p, f ≠ .invalidInstruction w p) {c : HostCall} (hc : c ≠ .powerOn) :
    ((h.step k).1.call c).1 = (h.step k).1 ∧ ((h.step k).1.call c).2 ≠ .ok := by
  have hleft := (Session.step_fault hf).1
  cases c with
  | powerOn => exact absurd rfl hc
  | load image =>
    rw [hleft]
    exact ⟨rfl, nofun⟩
  | step k' =>
    rw [Session.call, Session.step_again hf]
    exact ⟨rfl, nofun⟩
  | hostSkip =>
    have hnone : ∀ w p, (h.step k).1.lastFault ≠ some (.invalidInstruction w p) := fun w p hl => by
      rw [hleft] at hl
      exact hinvalid w p (Option.some.inj hl)
    rw [Session.call, Session.hostSkip_of_not_invalid hnone]
    exact ⟨rfl, nofun⟩

/-- Settles O60: the session after a fault answers the same fault to any further `Step`; stuck on a fatal one, it refuses the other calls. -/
theorem faultRepeatsUntilPowerOn : Obligations.FaultRepeatsUntilPowerOn := by
  refine ⟨fun h k k' f hf => ?_, fun h k f c hf hinvalid => Session.call_after_fatal hf hinvalid, fun _ => rfl⟩
  rw [Session.step_again hf, (Session.step_fault hf).1]
  exact ⟨rfl, rfl⟩

/-! ### Load and Step, remembered by the host (R283) -/

theorem Session.after_remembers (h : Session) (o : Outcome) :
    (h.after o).1.stepped = h.stepped ∧ (h.after o).1.loaded = h.loaded := by
  cases o with
  | _ => exact ⟨rfl, rfl⟩

theorem Session.step_remembers (h : Session) (k : Input) : (h.step k).1.stepped = true ∧ (h.step k).1.loaded = h.loaded := by
  cases hs : h.stuckOn with
  | some f =>
    rw [Session.step_stuck hs]
    exact ⟨rfl, rfl⟩
  | none =>
    rw [Session.step_free hs]
    exact Session.after_remembers _ _

theorem Session.hostSkip_remembers (h : Session) : h.hostSkip.1.stepped = h.stepped ∧ h.hostSkip.1.loaded = h.loaded := by
  unfold Session.hostSkip
  split
  · exact ⟨rfl, rfl⟩
  · exact ⟨rfl, rfl⟩

theorem Session.load_remembers (h : Session) (image : List Byte) :
    (h.load image).1.stepped = h.stepped ∧ (h.loaded = true → (h.load image).1.loaded = true) := by
  unfold Session.load
  split_ifs
  · exact ⟨rfl, id⟩
  · exact ⟨rfl, id⟩
  · cases loadImage image h.block with
    | next t => exact ⟨rfl, fun _ => rfl⟩
    | fault f => exact ⟨rfl, id⟩
    | refused r => exact ⟨rfl, id⟩

theorem Session.call_remembers (h : Session) {c : HostCall} (hc : c ≠ .powerOn) :
    (h.stepped = true → (h.call c).1.stepped = true) ∧ (h.loaded = true → (h.call c).1.loaded = true) := by
  cases c with
  | powerOn => exact absurd rfl hc
  | load image =>
    obtain ⟨hstepped, hloaded⟩ := h.load_remembers image
    exact ⟨hstepped.trans, hloaded⟩
  | step k =>
    obtain ⟨hstepped, hloaded⟩ := h.step_remembers k
    exact ⟨fun _ => hstepped, hloaded.trans⟩
  | hostSkip =>
    obtain ⟨hstepped, hloaded⟩ := h.hostSkip_remembers
    exact ⟨hstepped.trans, hloaded.trans⟩

/-- Settles O24: `Load` by what the host remembers, and no call but PowerOn takes a memory back. -/
theorem loadOnlyBeforeFirstStep : Obligations.LoadOnlyBeforeFirstStep := by
  refine fun h => ⟨fun image t hs hl hload => ?_, fun image f hs hl hload => ?_, fun image hs hl => ?_, fun image hs => ?_,
    fun k => (h.step_remembers k).1, fun c hc => h.call_remembers hc, rfl⟩
  · simp [Session.load, hs, hl, hload]
  · simp [Session.load, hs, hl, hload]
  · simp [Session.load, hs, hl]
  · simp [Session.load, hs]

end Sys2Proof.Machine
end
